-- ==== Sys2Proof/Word.lean ====
section
/-! DEFINITION. The widths the spec gives its values (spec/00_scope.md R10; spec/10_state.md R21, R24, R27, R31). -/

namespace Sys2Proof

/-- A memory cell, a general register, a timer or an 8-bit immediate `NN`: a `u8` of R10. -/
abbrev Byte := BitVec 8

/-- An instruction word, PC, I or a stack entry: a `u16` of R10. -/
abbrev Word := BitVec 16

/-- The number of a general register, as the fields `X` and `Y` hold it (spec/30_encoding.md R71). -/
abbrev RegId := BitVec 4

/-- The 4-bit field `N`: a sprite height, or the low nibble of families 5, 8 and 9 (R71). -/
abbrev Nibble := BitVec 4

/-- The 12-bit address immediate `NNN` (R71). -/
abbrev Addr12 := BitVec 12

end Sys2Proof
end

