-- ==== Sys2Proof/Syntax.lean ====
section
/-! DEFINITION. The instructions: one constructor per row of spec/opcode_table.json, in the table's order
(spec/30_encoding.md R73). A field that a row ignores is kept, so that no bit of a word is lost (R79). -/

namespace Sys2Proof

/-- The 40 rows of the decode table. The docstrings give the row's pattern and the rule of its meaning. -/
inductive Instr where
  /-- `00E0` CLS (R151). -/
  | cls
  /-- `00EE` RET (R102). -/
  | ret
  /-- `0NNN` other than the two above: SYS nnn (R101). -/
  | sys (nnn : Addr12)
  /-- `1NNN` JP nnn (R103). -/
  | jp (nnn : Addr12)
  /-- `2NNN` CALL nnn (R104). -/
  | call (nnn : Addr12)
  /-- `3XNN` SE Vx, nn (R111). -/
  | seImm (x : RegId) (nn : Byte)
  /-- `4XNN` SNE Vx, nn (R112). -/
  | sneImm (x : RegId) (nn : Byte)
  /-- `5XY0` SE Vx, Vy (R113). -/
  | seReg (x y : RegId)
  /-- `5XYn`, n not 0: the alias row of SE Vx, Vy (R77). -/
  | seRegAlias (x y : RegId) (n : Nibble)
  /-- `6XNN` LD Vx, nn (R121). -/
  | ldImm (x : RegId) (nn : Byte)
  /-- `7XNN` ADD Vx, nn (R122). -/
  | addImm (x : RegId) (nn : Byte)
  /-- `8XY0` LD Vx, Vy (R123). -/
  | ldReg (x y : RegId)
  /-- `8XY1` OR Vx, Vy (R124). -/
  | orReg (x y : RegId)
  /-- `8XY2` AND Vx, Vy (R125). -/
  | andReg (x y : RegId)
  /-- `8XY3` XOR Vx, Vy (R126). -/
  | xorReg (x y : RegId)
  /-- `8XY4` ADD Vx, Vy (R127). -/
  | addReg (x y : RegId)
  /-- `8XY5` SUB Vx, Vy (R128). -/
  | subReg (x y : RegId)
  /-- `8XY6` SHR Vx; `y` is ignored (R129, R79). -/
  | shr (x y : RegId)
  /-- `8XY7` SUBN Vx, Vy (R130). -/
  | subnReg (x y : RegId)
  /-- `8XYE` SHL Vx; `y` is ignored (R131, R79). -/
  | shl (x y : RegId)
  /-- `8XYn`, n in 8 to D and F: the unmatched row of family 8 (R132). -/
  | nopAlu (x y : RegId) (n : Nibble)
  /-- `9XY0` SNE Vx, Vy (R114). -/
  | sneReg (x y : RegId)
  /-- `9XYn`, n not 0: the alias row of SNE Vx, Vy (R77). -/
  | sneRegAlias (x y : RegId) (n : Nibble)
  /-- `ANNN` LD I, nnn (R140). -/
  | ldI (nnn : Addr12)
  /-- `BNNN` JP V0, nnn (R105). -/
  | jpV0 (nnn : Addr12)
  /-- `CXNN` RND Vx, nn (R133). -/
  | rnd (x : RegId) (nn : Byte)
  /-- `DXYN` DRW Vx, Vy, n (R152). -/
  | drw (x y : RegId) (n : Nibble)
  /-- `EX9E` SKP Vx (R160). -/
  | skp (x : RegId)
  /-- `EXA1` SKNP Vx (R161). -/
  | sknp (x : RegId)
  /-- `EXnn` other: the unmatched row of family E (R166). -/
  | nopKey (x : RegId) (nn : Byte)
  /-- `FX07` LD Vx, DT (R163). -/
  | ldVxDt (x : RegId)
  /-- `FX0A` LD Vx, K (R162). -/
  | ldVxK (x : RegId)
  /-- `FX15` LD DT, Vx (R164). -/
  | ldDtVx (x : RegId)
  /-- `FX18` LD ST, Vx (R165). -/
  | ldStVx (x : RegId)
  /-- `FX1E` ADD I, Vx (R141). -/
  | addIVx (x : RegId)
  /-- `FX29` LD F, Vx (R142). -/
  | ldFVx (x : RegId)
  /-- `FX33` LD B, Vx (R143). -/
  | ldBVx (x : RegId)
  /-- `FX55` LD [I], Vx (R144). -/
  | storeRegs (x : RegId)
  /-- `FX65` LD Vx, [I] (R145). -/
  | loadRegs (x : RegId)
  /-- `FXnn` other: the unmatched row of family F (R167). -/
  | nopMisc (x : RegId) (nn : Byte)
  deriving DecidableEq, Repr

end Sys2Proof
end

