-- ==== Sys2Proof/WellFormed.lean ====
section
/-! DEFINITION. Which instructions some word stands for. A field's width is its type; what is left to check is that a
catch-all row does not hold a word that an earlier row of spec/30_encoding.md R73 matches. -/

namespace Sys2Proof

/-- The low bytes of the two matched rows of family E (R73 rows 25 and 26). -/
def keyOpcodes : List Byte := [0x9E#8, 0xA1#8]

/-- The low bytes of the nine matched rows of family F (R73 rows 27 to 35). -/
def miscOpcodes : List Byte :=
  [0x07#8, 0x0A#8, 0x15#8, 0x18#8, 0x1E#8, 0x29#8, 0x33#8, 0x55#8, 0x65#8]

/-- The low nibbles of the unmatched row of family 8 (R132). -/
def unmatchedAluNibbles : List Nibble := [0x8#4, 0x9#4, 0xA#4, 0xB#4, 0xC#4, 0xD#4, 0xF#4]

/-- The instruction is one that decoding gives for some word. -/
def Instr.wf : Instr → Bool
  | .sys nnn => nnn != 0x0E0#12 && nnn != 0x0EE#12
  | .seRegAlias _ _ n => n != 0#4
  | .sneRegAlias _ _ n => n != 0#4
  | .nopAlu _ _ n => unmatchedAluNibbles.contains n
  | .nopKey _ nn => !keyOpcodes.contains nn
  | .nopMisc _ nn => !miscOpcodes.contains nn
  | .cls | .ret | .jp _ | .call _ | .seImm _ _ | .sneImm _ _ | .seReg _ _ | .ldImm _ _ | .addImm _ _
  | .ldReg _ _ | .orReg _ _ | .andReg _ _ | .xorReg _ _ | .addReg _ _ | .subReg _ _ | .shr _ _
  | .subnReg _ _ | .shl _ _ | .sneReg _ _ | .ldI _ | .jpV0 _ | .rnd _ _ | .drw _ _ _ | .skp _ | .sknp _
  | .ldVxDt _ | .ldVxK _ | .ldDtVx _ | .ldStVx _ | .addIVx _ | .ldFVx _ | .ldBVx _ | .storeRegs _
  | .loadRegs _ => true

/-- `Instr.wf` as a proposition. -/
abbrev Instr.WellFormed (i : Instr) : Prop := i.wf = true

end Sys2Proof
end

