-- ==== Sys2Proof/Decode.lean ====
section
/-! DEFINITION. Decoding and encoding (spec/30_encoding.md R70 to R79), and the decode table of R73 as data. -/

namespace Sys2Proof

/-! ### Fields (R71) -/

/-- `T`, bits 15:12: the family. -/
def fieldT (w : Word) : Nibble := w.extractLsb' 12 4
/-- `X`, bits 11:8. -/
def fieldX (w : Word) : RegId := w.extractLsb' 8 4
/-- `Y`, bits 7:4. -/
def fieldY (w : Word) : RegId := w.extractLsb' 4 4
/-- `N`, bits 3:0. -/
def fieldN (w : Word) : Nibble := w.extractLsb' 0 4
/-- `NN`, bits 7:0. -/
def fieldNN (w : Word) : Byte := w.extractLsb' 0 8
/-- `NNN`, bits 11:0. -/
def fieldNNN (w : Word) : Addr12 := w.extractLsb' 0 12

/-! ### The decoder (R72): the top nibble, then the family's secondary key -/

/-- Family 0 is keyed on the whole word. -/
def decodeSystem (w : Word) : Instr :=
  if w = 0x00E0#16 then .cls else if w = 0x00EE#16 then .ret else .sys (fieldNNN w)

/-- Family 8 is keyed on the low nibble. -/
def decodeAlu (x y : RegId) (n : Nibble) : Instr :=
  match n.toNat with
  | 0x0 => .ldReg x y
  | 0x1 => .orReg x y
  | 0x2 => .andReg x y
  | 0x3 => .xorReg x y
  | 0x4 => .addReg x y
  | 0x5 => .subReg x y
  | 0x6 => .shr x y
  | 0x7 => .subnReg x y
  | 0xE => .shl x y
  | _ => .nopAlu x y n

/-- Family E is keyed on the whole low byte. -/
def decodeKey (x : RegId) (nn : Byte) : Instr :=
  if nn = 0x9E#8 then .skp x else if nn = 0xA1#8 then .sknp x else .nopKey x nn

/-- Family F is keyed on the whole low byte. -/
def decodeMisc (x : RegId) (nn : Byte) : Instr :=
  if nn = 0x07#8 then .ldVxDt x
  else if nn = 0x0A#8 then .ldVxK x
  else if nn = 0x15#8 then .ldDtVx x
  else if nn = 0x18#8 then .ldStVx x
  else if nn = 0x1E#8 then .addIVx x
  else if nn = 0x29#8 then .ldFVx x
  else if nn = 0x33#8 then .ldBVx x
  else if nn = 0x55#8 then .storeRegs x
  else if nn = 0x65#8 then .loadRegs x
  else .nopMisc x nn

/-- The instruction a word stands for; every one of the 65536 words has one (R74, R76). -/
def decode (w : Word) : Instr :=
  match (fieldT w).toNat with
  | 0x0 => decodeSystem w
  | 0x1 => .jp (fieldNNN w)
  | 0x2 => .call (fieldNNN w)
  | 0x3 => .seImm (fieldX w) (fieldNN w)
  | 0x4 => .sneImm (fieldX w) (fieldNN w)
  | 0x5 => if fieldN w = 0#4 then .seReg (fieldX w) (fieldY w) else .seRegAlias (fieldX w) (fieldY w) (fieldN w)
  | 0x6 => .ldImm (fieldX w) (fieldNN w)
  | 0x7 => .addImm (fieldX w) (fieldNN w)
  | 0x8 => decodeAlu (fieldX w) (fieldY w) (fieldN w)
  | 0x9 => if fieldN w = 0#4 then .sneReg (fieldX w) (fieldY w) else .sneRegAlias (fieldX w) (fieldY w) (fieldN w)
  | 0xA => .ldI (fieldNNN w)
  | 0xB => .jpV0 (fieldNNN w)
  | 0xC => .rnd (fieldX w) (fieldNN w)
  | 0xD => .drw (fieldX w) (fieldY w) (fieldN w)
  | 0xE => decodeKey (fieldX w) (fieldNN w)
  | _ => decodeMisc (fieldX w) (fieldNN w)

/-! ### Bytes (R53, R70: the byte at the lower address is bits 15 to 8) -/

/-- Why bytes give no instruction. Every two bytes do (R74), so too few bytes is the only reason. -/
inductive DecodeError where
  /-- Fewer than two bytes. Never met by a step, whose fetch always has two (R91). -/
  | truncated
  deriving DecidableEq, Repr

/-- The word two bytes make, `hi` from the lower address. -/
def wordOfBytes (hi lo : Byte) : Word := hi ++ lo

/-- The byte of a word at the lower address. -/
def highByte (w : Word) : Byte := w.extractLsb' 8 8

/-- The byte of a word at the higher address. -/
def lowByte (w : Word) : Byte := w.extractLsb' 0 8

/-- Decode the first instruction of a byte sequence; the rest is returned with it. -/
def decodeBytes : List Byte → Except DecodeError (Instr × List Byte)
  | hi :: lo :: rest => .ok (decode (wordOfBytes hi lo), rest)
  | _ => .error .truncated

/-! ### The encoder (R71, R73) -/

/-- The word of an instruction. -/
def encode : Instr → Word
  | .cls => 0x00E0#16
  | .ret => 0x00EE#16
  | .sys nnn => 0x0#4 ++ nnn
  | .jp nnn => 0x1#4 ++ nnn
  | .call nnn => 0x2#4 ++ nnn
  | .seImm x nn => 0x3#4 ++ x ++ nn
  | .sneImm x nn => 0x4#4 ++ x ++ nn
  | .seReg x y => 0x5#4 ++ x ++ y ++ 0x0#4
  | .seRegAlias x y n => 0x5#4 ++ x ++ y ++ n
  | .ldImm x nn => 0x6#4 ++ x ++ nn
  | .addImm x nn => 0x7#4 ++ x ++ nn
  | .ldReg x y => 0x8#4 ++ x ++ y ++ 0x0#4
  | .orReg x y => 0x8#4 ++ x ++ y ++ 0x1#4
  | .andReg x y => 0x8#4 ++ x ++ y ++ 0x2#4
  | .xorReg x y => 0x8#4 ++ x ++ y ++ 0x3#4
  | .addReg x y => 0x8#4 ++ x ++ y ++ 0x4#4
  | .subReg x y => 0x8#4 ++ x ++ y ++ 0x5#4
  | .shr x y => 0x8#4 ++ x ++ y ++ 0x6#4
  | .subnReg x y => 0x8#4 ++ x ++ y ++ 0x7#4
  | .shl x y => 0x8#4 ++ x ++ y ++ 0xE#4
  | .nopAlu x y n => 0x8#4 ++ x ++ y ++ n
  | .sneReg x y => 0x9#4 ++ x ++ y ++ 0x0#4
  | .sneRegAlias x y n => 0x9#4 ++ x ++ y ++ n
  | .ldI nnn => 0xA#4 ++ nnn
  | .jpV0 nnn => 0xB#4 ++ nnn
  | .rnd x nn => 0xC#4 ++ x ++ nn
  | .drw x y n => 0xD#4 ++ x ++ y ++ n
  | .skp x => 0xE#4 ++ x ++ 0x9E#8
  | .sknp x => 0xE#4 ++ x ++ 0xA1#8
  | .nopKey x nn => 0xE#4 ++ x ++ nn
  | .ldVxDt x => 0xF#4 ++ x ++ 0x07#8
  | .ldVxK x => 0xF#4 ++ x ++ 0x0A#8
  | .ldDtVx x => 0xF#4 ++ x ++ 0x15#8
  | .ldStVx x => 0xF#4 ++ x ++ 0x18#8
  | .addIVx x => 0xF#4 ++ x ++ 0x1E#8
  | .ldFVx x => 0xF#4 ++ x ++ 0x29#8
  | .ldBVx x => 0xF#4 ++ x ++ 0x33#8
  | .storeRegs x => 0xF#4 ++ x ++ 0x55#8
  | .loadRegs x => 0xF#4 ++ x ++ 0x65#8
  | .nopMisc x nn => 0xF#4 ++ x ++ nn

/-- The bytes of an instruction as memory holds them, lower address first. -/
def encodeBytes (i : Instr) : List Byte := [highByte (encode i), lowByte (encode i)]

/-! ### The decode table of R73 as data -/

/-- One row: the `order` of spec/opcode_table.json, the match and mask of R73, and the operands the row takes. -/
structure OpcodeRow where
  order : Nat
  pattern : Word
  mask : Word
  build : Word → Instr

/-- The row's test `(ir & mask) = match` of R73. -/
def OpcodeRow.accepts (r : OpcodeRow) (w : Word) : Bool := (w &&& r.mask) == r.pattern

/-- Rows 1 to 11 of the table: families 0 to 7. -/
def opcodeRowsLow : List OpcodeRow :=
  [⟨1, 0x00E0#16, 0xFFFF#16, fun _ => .cls⟩,
   ⟨2, 0x00EE#16, 0xFFFF#16, fun _ => .ret⟩,
   ⟨3, 0x0000#16, 0xF000#16, fun w => .sys (fieldNNN w)⟩,
   ⟨4, 0x1000#16, 0xF000#16, fun w => .jp (fieldNNN w)⟩,
   ⟨5, 0x2000#16, 0xF000#16, fun w => .call (fieldNNN w)⟩,
   ⟨6, 0x3000#16, 0xF000#16, fun w => .seImm (fieldX w) (fieldNN w)⟩,
   ⟨7, 0x4000#16, 0xF000#16, fun w => .sneImm (fieldX w) (fieldNN w)⟩,
   ⟨8, 0x5000#16, 0xF00F#16, fun w => .seReg (fieldX w) (fieldY w)⟩,
   ⟨9, 0x5000#16, 0xF000#16, fun w => .seRegAlias (fieldX w) (fieldY w) (fieldN w)⟩,
   ⟨10, 0x6000#16, 0xF000#16, fun w => .ldImm (fieldX w) (fieldNN w)⟩,
   ⟨11, 0x7000#16, 0xF000#16, fun w => .addImm (fieldX w) (fieldNN w)⟩]

/-- Rows 12 to 21 of the table: family 8. -/
def opcodeRowsAlu : List OpcodeRow :=
  [⟨12, 0x8000#16, 0xF00F#16, fun w => .ldReg (fieldX w) (fieldY w)⟩,
   ⟨13, 0x8001#16, 0xF00F#16, fun w => .orReg (fieldX w) (fieldY w)⟩,
   ⟨14, 0x8002#16, 0xF00F#16, fun w => .andReg (fieldX w) (fieldY w)⟩,
   ⟨15, 0x8003#16, 0xF00F#16, fun w => .xorReg (fieldX w) (fieldY w)⟩,
   ⟨16, 0x8004#16, 0xF00F#16, fun w => .addReg (fieldX w) (fieldY w)⟩,
   ⟨17, 0x8005#16, 0xF00F#16, fun w => .subReg (fieldX w) (fieldY w)⟩,
   ⟨18, 0x8006#16, 0xF00F#16, fun w => .shr (fieldX w) (fieldY w)⟩,
   ⟨19, 0x8007#16, 0xF00F#16, fun w => .subnReg (fieldX w) (fieldY w)⟩,
   ⟨20, 0x800E#16, 0xF00F#16, fun w => .shl (fieldX w) (fieldY w)⟩,
   ⟨21, 0x8000#16, 0xF000#16, fun w => .nopAlu (fieldX w) (fieldY w) (fieldN w)⟩]

/-- Rows 22 to 30 of the table: families 9 to E. -/
def opcodeRowsHigh : List OpcodeRow :=
  [⟨22, 0x9000#16, 0xF00F#16, fun w => .sneReg (fieldX w) (fieldY w)⟩,
   ⟨23, 0x9000#16, 0xF000#16, fun w => .sneRegAlias (fieldX w) (fieldY w) (fieldN w)⟩,
   ⟨24, 0xA000#16, 0xF000#16, fun w => .ldI (fieldNNN w)⟩,
   ⟨25, 0xB000#16, 0xF000#16, fun w => .jpV0 (fieldNNN w)⟩,
   ⟨26, 0xC000#16, 0xF000#16, fun w => .rnd (fieldX w) (fieldNN w)⟩,
   ⟨27, 0xD000#16, 0xF000#16, fun w => .drw (fieldX w) (fieldY w) (fieldN w)⟩,
   ⟨28, 0xE09E#16, 0xF0FF#16, fun w => .skp (fieldX w)⟩,
   ⟨29, 0xE0A1#16, 0xF0FF#16, fun w => .sknp (fieldX w)⟩,
   ⟨30, 0xE000#16, 0xF000#16, fun w => .nopKey (fieldX w) (fieldNN w)⟩]

/-- Rows 31 to 40 of the table: family F. -/
def opcodeRowsMisc : List OpcodeRow :=
  [⟨31, 0xF007#16, 0xF0FF#16, fun w => .ldVxDt (fieldX w)⟩,
   ⟨32, 0xF00A#16, 0xF0FF#16, fun w => .ldVxK (fieldX w)⟩,
   ⟨33, 0xF015#16, 0xF0FF#16, fun w => .ldDtVx (fieldX w)⟩,
   ⟨34, 0xF018#16, 0xF0FF#16, fun w => .ldStVx (fieldX w)⟩,
   ⟨35, 0xF01E#16, 0xF0FF#16, fun w => .addIVx (fieldX w)⟩,
   ⟨36, 0xF029#16, 0xF0FF#16, fun w => .ldFVx (fieldX w)⟩,
   ⟨37, 0xF033#16, 0xF0FF#16, fun w => .ldBVx (fieldX w)⟩,
   ⟨38, 0xF055#16, 0xF0FF#16, fun w => .storeRegs (fieldX w)⟩,
   ⟨39, 0xF065#16, 0xF0FF#16, fun w => .loadRegs (fieldX w)⟩,
   ⟨40, 0xF000#16, 0xF000#16, fun w => .nopMisc (fieldX w) (fieldNN w)⟩]

/-- The decode table, top to bottom. `decode` does not use it: that the two agree is a statement of its own. -/
def opcodeTable : List OpcodeRow := opcodeRowsLow ++ opcodeRowsAlu ++ opcodeRowsHigh ++ opcodeRowsMisc

/-- The first row of the table that accepts the word (R73). -/
def firstRow (w : Word) : Option OpcodeRow := opcodeTable.find? (fun r => r.accepts w)

/-! ### The host's question about one row of the table -/

/-- The word whose bits below `nbits` are those of `w` and whose other bits are 0. -/
def tableWord (nbits w : Nat) : Word := BitVec.ofNat 16 (w % 2 ^ nbits)

/-- What the decoder reads from an instruction of `nbits` bits `w`, laid out as memory holds it. -/
def decodeTableWord (nbits w : Nat) : Option Instr :=
  match decodeBytes [highByte (tableWord nbits w), lowByte (tableWord nbits w)] with
  | .ok (i, _) => some i
  | .error _ => none

end Sys2Proof
end

