-- ==== Sys2Proof/Config.lean ====
section
/-! DEFINITION. The fixed parameters of spec/00_scope.md R6 that the machine uses by name, and the one free value, the bytes
of a random source. The open parameters of R7 that a step can see (FONT, the keys, which source) are fields of the state. -/

namespace Sys2Proof

/-- `MEM_SIZE`: memory has addresses 0x000 to 0xFFF; every address and every PC is reduced modulo it (R6, R51, R25). -/
@[simp] abbrev Config.memSize : Nat := 4096

/-- `PROG_BASE`: where programs load, and PC after reset (R6). -/
@[simp] abbrev Config.progBase : Nat := 0x200

/-- `ROM_MAX`: the largest program in bytes (R6). -/
@[simp] abbrev Config.romMax : Nat := 3584

/-- `FONT_BASE`: the first byte of the font (R6). -/
@[simp] abbrev Config.fontBase : Nat := 0x050

/-- The bytes of the font, sixteen glyphs of five (R6, R7). -/
@[simp] abbrev Config.fontBytes : Nat := 80

/-- `GLYPH_BYTES`: bytes per glyph (R6). -/
@[simp] abbrev Config.glyphBytes : Nat := 5

/-- A FREE VALUE: the byte that the random source named `source` gives at its place `n` (spec/10_state.md R39,
spec/50_host_interface.md R178, decision D20: a draw under no law). It has no body, so nothing can be proved of any value,
nor of what two sources have to do with each other (R180). See notes/assumptions/3.md (safe). -/
opaque Config.randomByte (source n : Nat) : Byte

end Sys2Proof
end

