-- ==== Sys2Proof/Machine/Font.lean ====
section
/-! DEFINITION. The parameter FONT, whose bytes reset seeds at 0x050 to 0x09F (spec/00_scope.md R7, spec/20_memory.md R56),
its default table, and what a byte of memory that nothing has written reads as (spec/10_state.md R42). -/

namespace Sys2Proof.Machine

/-- A value of the open parameter FONT: its 80 bytes (R7, R56). -/
abbrev Font := Vector Byte Config.fontBytes

/-- The sixteen glyphs of R56, five bytes each, top row first. PRESUMED: the spec gives this default table from general
knowledge as the default of FONT. See notes/assumptions/4.md (unsafe). -/
def glyphs : List (List Byte) :=
  [[0xF0#8, 0x90#8, 0x90#8, 0x90#8, 0xF0#8],  -- 0
   [0x20#8, 0x60#8, 0x20#8, 0x20#8, 0x70#8],  -- 1
   [0xF0#8, 0x10#8, 0xF0#8, 0x80#8, 0xF0#8],  -- 2
   [0xF0#8, 0x10#8, 0xF0#8, 0x10#8, 0xF0#8],  -- 3
   [0x90#8, 0x90#8, 0xF0#8, 0x10#8, 0x10#8],  -- 4
   [0xF0#8, 0x80#8, 0xF0#8, 0x10#8, 0xF0#8],  -- 5
   [0xF0#8, 0x80#8, 0xF0#8, 0x90#8, 0xF0#8],  -- 6
   [0xF0#8, 0x10#8, 0x20#8, 0x40#8, 0x40#8]]  -- 7
  ++
  [[0xF0#8, 0x90#8, 0xF0#8, 0x90#8, 0xF0#8],  -- 8
   [0xF0#8, 0x90#8, 0xF0#8, 0x10#8, 0xF0#8],  -- 9
   [0xF0#8, 0x90#8, 0xF0#8, 0x90#8, 0x90#8],  -- A
   [0xE0#8, 0x90#8, 0xE0#8, 0x90#8, 0xE0#8],  -- B
   [0xF0#8, 0x80#8, 0x80#8, 0x80#8, 0xF0#8],  -- C
   [0xE0#8, 0x90#8, 0x90#8, 0x90#8, 0xE0#8],  -- D
   [0xF0#8, 0x80#8, 0xF0#8, 0x80#8, 0xF0#8],  -- E
   [0xF0#8, 0x80#8, 0xF0#8, 0x80#8, 0x80#8]]  -- F

/-- The default of FONT (R56). -/
def defaultFont : Font := ⟨glyphs.flatten.toArray, by decide⟩

/-- What an address that memory does not list reads as: its byte after reset (R42, R55), FONT at 0x050 to 0x09F and 0
everywhere else. -/
def unlistedByte (font : Font) (a : Nat) : Byte :=
  if h : Config.fontBase ≤ a ∧ a < Config.fontBase + Config.fontBytes then
    font[a - Config.fontBase]'(by simp at h ⊢; omega)
  else 0#8

end Sys2Proof.Machine
end

