-- ==== Sys2Proof/Machine/State.lean ====
section
/-! DEFINITION. The state of the machine as plain data: the eight items of spec/10_state.md R20, and what one instance is
given from outside: the key flags (R38), the random source and the place in it (R39, R180), and FONT (R7). -/

namespace Sys2Proof.Machine

/-- MEM as the list of the bytes that differ from their reset value, addresses strictly rising (R36, R50).
`Memory.wf` of Machine/Ops.lean is the canonical form, `unlistedByte` what an unlisted address reads as. -/
abbrev Memory := List Host.Cell

/-- FB: row `y` is entry `y`, column `x` is bit `x` of the row (R37, R150). The packing is the model's own and not
observable; see notes/assumptions/7.md (safe). -/
abbrev Framebuffer := Vector (BitVec 64) 32

/-- The machine's state (R20), its input flags and the counter that names the next random byte. -/
structure State where
  /-- MEM: 4096 bytes (R36). -/
  mem : Memory
  /-- V0 to VF (R21); VF, entry 15, is also the flag register (R22). -/
  v : Vector Byte 16
  /-- PC: a 16-bit container whose value stays at most 0x0FFF (R24, R25). -/
  pc : Word
  /-- I, the index register: any 16-bit value (R27, R28). -/
  i : Word
  /-- STACK[0..15] (R32); entries at SP and above are not observable (R35). -/
  stack : Vector Word 16
  /-- SP: how many entries of the stack are in use, 0 to 16 (R32). -/
  sp : Fin 17
  /-- DT, the delay timer (R29). -/
  dt : Byte
  /-- ST, the sound timer (R30). -/
  st : Byte
  /-- FB, the framebuffer (R37). -/
  fb : Framebuffer
  /-- The key flags, bit `k` for key `k`, 1 for pressed. An input the host owns: no step writes it (R38, R174).
  See notes/assumptions/2.md (unsafe for claims about a run of steps alone). -/
  keys : BitVec 16
  /-- THE MODEL'S OWN field: the name of the random source that the host has injected into this instance (R178, R180). No
  step changes it. See notes/assumptions/3.md (safe). -/
  source : Nat
  /-- THE MODEL'S OWN field: the place in that source, so that the next byte drawn is `Config.randomByte source draws`
  (R39). See notes/assumptions/3.md (safe). -/
  draws : Nat
  /-- The open parameter FONT of this instance, which reset seeds (R7, R56). Given at construction, and no step or host
  operation changes it. See notes/assumptions/4.md. -/
  font : Font
  deriving DecidableEq, Repr

/-- The two fault outcomes of a step (spec/60_exceptions.md R190, R191). No other exists (spec/35_execution_cycle.md R95).
A fault changes nothing, so it carries no state: the state after it is the state before it (R196). -/
inductive Fault where
  /-- Raised by `00EE` when the call stack is empty (R192). Safe: the spec says the machine stops here. -/
  | stackUnderflow
  /-- Raised by `2NNN` when the call stack holds 16 entries (R193, decision D5). Safe: the spec says the machine stops
  here. -/
  | stackOverflow
  deriving DecidableEq, Repr

/-- Why an instruction has no meaning in the model. -/
inductive Refusal where
  /-- Raised by `exec` for an instruction not modelled yet. Safe, and never raised: every instruction has its meaning. -/
  | notModelled (mnemonic : String)
  deriving DecidableEq, Repr

/-- What a meaning or a step answers. -/
abbrev Result := Host.Outcome State Fault Refusal

/-- An instance right after construction with the given FONT and random source (R7, R42,
spec/70_reset_and_hazards.md R221). `keys` and `draws` are no part of what reset sets; their values here are DESIGN CHOICES,
notes/assumptions/1.md and 3.md. -/
def State.construct (font : Font) (source : Nat) : State where
  mem := []
  v := Vector.replicate 16 0#8
  pc := BitVec.ofNat 16 Config.progBase
  i := 0#16
  stack := Vector.replicate 16 0#16
  sp := 0
  dt := 0#8
  st := 0#8
  fb := Vector.replicate 32 0#64
  keys := 0#16
  source := source
  draws := 0
  font := font

/-- The machine right after reset or power-on (R42, R220, R221), with the default FONT of R56 (PRESUMED,
notes/assumptions/4.md) and the source named 0 (DESIGN CHOICE, notes/assumptions/3.md). -/
def State.reset : State := State.construct defaultFont 0

end Sys2Proof.Machine
end

