-- ==== Sys2Proof/Machine/Ops.lean ====
section
/-! DEFINITION. The named operations over memory, registers, PC, stack, framebuffer, timers and inputs that every meaning
is written with (the primitives of spec/00_scope.md R12). -/

namespace Sys2Proof.Machine

/-! ### Memory (spec/20_memory.md R51 to R53) -/

/-- The byte at an address already reduced. -/
def Memory.read (font : Font) : Memory → Nat → Byte
  | [], a => unlistedByte font a
  | (b, v) :: m, a => if a = b then v else Memory.read font m a

/-- Memory without any entry for an address. -/
def Memory.erase : Memory → Nat → Memory
  | [], _ => []
  | (b, w) :: m, a => if a = b then Memory.erase m a else (b, w) :: Memory.erase m a

/-- Memory with an entry put before the first one of a larger address. -/
def Memory.insert : Memory → Nat → Byte → Memory
  | [], a, v => [(a, v)]
  | (b, w) :: m, a, v => if a < b then (a, v) :: (b, w) :: m else (b, w) :: Memory.insert m a v

/-- Write the byte at an address already reduced: a byte the address reads as unlisted is not listed, so the canonical
form is kept. -/
def Memory.write (font : Font) (m : Memory) (a : Nat) (v : Byte) : Memory :=
  if v = unlistedByte font a then m.erase a else (m.erase a).insert a v

/-- The canonical form of a memory whose addresses start at `lo` or above: addresses strictly rising and below 4096, and
no entry equal to what the address reads as unlisted. -/
def Memory.wfFrom (font : Font) : Nat → Memory → Bool
  | _, [] => true
  | lo, (a, v) :: m =>
    decide (lo ≤ a) && decide (a < Config.memSize) && (v != unlistedByte font a) && Memory.wfFrom font (a + 1) m

/-- Memory is in its canonical form. -/
def Memory.wf (font : Font) (m : Memory) : Bool := Memory.wfFrom font 0 m

/-- `MemRead(a, 1)`: the address is reduced modulo 4096 (R51). -/
def State.readByte (s : State) (a : Nat) : Byte := s.mem.read s.font (a % Config.memSize)

/-- `MemWrite(a, 1, b)`: the address is reduced modulo 4096 (R51). -/
def State.writeByte (s : State) (a : Nat) (b : Byte) : State :=
  { s with mem := s.mem.write s.font (a % Config.memSize) b }

/-- The bytes at `a`, `a + 1`, ..., `n` of them, each address reduced by itself (R51, R52). -/
def State.readBytes (s : State) (a n : Nat) : List Byte := (List.range n).map (fun k => s.readByte (a + k))

/-- Write bytes at `a`, `a + 1`, ..., in ascending order, each address reduced by itself (R51, R52). -/
def State.writeBytes (s : State) (a : Nat) : List Byte → State
  | [] => s
  | b :: bs => (s.writeByte a b).writeBytes (a + 1) bs

/-- The fetch: the two bytes at PC and PC + 1, big-endian (R53, spec/35_execution_cycle.md R91). -/
def State.fetchWord (s : State) : Word :=
  wordOfBytes (s.readByte s.pc.toNat) (s.readByte (s.pc.toNat + 1))

/-- Store the two bytes of a word where the next fetch reads them. -/
def State.placeWord (s : State) (w : Word) : State :=
  (s.writeByte s.pc.toNat (highByte w)).writeByte (s.pc.toNat + 1) (lowByte w)

/-! ### Registers (spec/10_state.md R21 to R31) -/

/-- VF, general register 15 (R22). -/
abbrev vf : RegId := 0xF#4

/-- `V[x]`. -/
def State.reg (s : State) (x : RegId) : Byte := s.v[x.toNat]'x.isLt

/-- `V[x] <- b`. -/
def State.setReg (s : State) (x : RegId) (b : Byte) : State := { s with v := s.v.set x.toNat b x.isLt }

/-- `I <- w`. -/
def State.setI (s : State) (w : Word) : State := { s with i := w }

/-- `DT <- b`. -/
def State.setDt (s : State) (b : Byte) : State := { s with dt := b }

/-- `ST <- b`. -/
def State.setSt (s : State) (b : Byte) : State := { s with st := b }

/-! ### The program counter (R24, R25) -/

/-- `pc <- target`: every assignment stores the target modulo 4096 (R25, decision D2). -/
def State.setPc (s : State) (target : Nat) : State := { s with pc := BitVec.ofNat 16 (target % Config.memSize) }

/-- `next`: PC + 2. -/
def State.advance (s : State) : State := s.setPc (s.pc.toNat + 2)

/-- `skip(c)`: PC + 4 if the condition holds, else PC + 2 (spec/41_skip.md R110). -/
def State.skipIf (s : State) (c : Bool) : State := s.setPc (s.pc.toNat + if c then 4 else 2)

/-! ### The call stack (R32 to R35) -/

/-- `push(w)`; none when the stack holds 16 entries (R33). -/
def State.push (s : State) (w : Word) : Option State :=
  if h : s.sp.val < 16 then some { s with stack := s.stack.set s.sp.val w, sp := ⟨s.sp.val + 1, by omega⟩ } else none

/-- `pop()`: the newest entry and the state without it; none when the stack is empty (R34). The entry stays in place above
the new SP (R35). -/
def State.pop (s : State) : Option (Word × State) :=
  if _h : 0 < s.sp.val then
    some (s.stack[s.sp.val - 1]'(by omega), { s with sp := ⟨s.sp.val - 1, by omega⟩ })
  else none

/-- `raise`: the step ends at once with the fault and no state change (R12, spec/60_exceptions.md R196, R200). This is the
whole of fault entry: nothing is saved, no mode changes and PC goes nowhere; and there is no return from it (R201). -/
def raise (f : Fault) : Result := .fault f

/-! ### The framebuffer (spec/44_display.md R150, R153) -/

/-- `FB[y][x]`; a place outside the grid is no pixel and reads as unlit. -/
def Framebuffer.pixel (fb : Framebuffer) (x y : Nat) : Bool :=
  if h : y < 32 then fb[y].getLsbD x else false

/-- `clear()`: every pixel 0. -/
def Framebuffer.clear : Framebuffer := Vector.replicate 32 0#64

/-- The framebuffer half of `xorPixel(x, y)`: `FB[y][x] <- FB[y][x] ^ 1`. -/
def Framebuffer.toggle (fb : Framebuffer) (x y : Nat) : Framebuffer :=
  if h : y < 32 then fb.set y (fb[y] ^^^ (1#64 <<< x)) else fb

/-- A framebuffer being drawn on, and whether a set pixel has been met so far. -/
structure Canvas where
  fb : Framebuffer
  coll : Bool
  deriving DecidableEq, Repr

/-- `xorPixel(x, y)` with its result added to the collision so far (R153), behind the bounds test of R152: outside the
64×32 grid nothing happens, so `xorPixel` is never called out of range (R154). -/
def Canvas.plot (c : Canvas) (x y : Nat) : Canvas :=
  if x ≤ 63 ∧ y ≤ 31 then ⟨c.fb.toggle x y, c.coll || c.fb.pixel x y⟩ else c

/-- One sprite row: for columns 0 to 7, bit 7 - c of the byte; a bit of 0 does nothing (R152). -/
def Canvas.plotRow (c : Canvas) (x0 y : Nat) (byte : Byte) : Canvas :=
  (List.range 8).foldl (fun c k => if byte.getLsbD (7 - k) then c.plot (x0 + k) y else c) c

/-- The sprite rows, top row first (R150, R152). Coordinates are unbounded integers (decision D15). -/
def Canvas.plotRows (c : Canvas) (x0 y0 : Nat) : List Byte → Canvas
  | [] => c
  | b :: bs => (c.plotRow x0 y0 b).plotRows x0 (y0 + 1) bs

/-- `FB[y][x]` of a state. -/
def State.pixel (s : State) (x y : Nat) : Bool := s.fb.pixel x y

/-- Replace the framebuffer. -/
def State.setFb (s : State) (fb : Framebuffer) : State := { s with fb := fb }

/-! ### Inputs (R38, R39) -/

/-- `KEY[k]` of this step's snapshot. -/
def State.keyDown (s : State) (k : Nat) : Bool := s.keys.getLsbD k

/-- The least key that is down, if any (spec/45_keys_timers.md R162). -/
def State.lowestKey (s : State) : Option Nat := (List.range 16).find? (fun k => s.keyDown k)

/-- `rnd()`: one byte from the source, a free value (R39). -/
def State.rndByte (s : State) : Byte := Config.randomByte s.source s.draws

/-- The source after `rnd()`: one byte consumed. -/
def State.rndDrawn (s : State) : State := { s with draws := s.draws + 1 }

/-! ### The timer tick (spec/35_execution_cycle.md R93) -/

/-- A timer after a tick: one less, and 0 stays 0. -/
def tickTimer (t : Byte) : Byte := if t = 0#8 then 0#8 else t - 1#8

/-- Both timers tick. -/
def State.tick (s : State) : State := { s with dt := tickTimer s.dt, st := tickTimer s.st }

/-- The end of a step: the tick follows a step whose outcome is `Ok`; a fault changes no state (R93, R196). -/
def finishStep : Result → Result
  | .next t => .next t.tick
  | .fault f => .fault f
  | .refused r => .refused r

end Sys2Proof.Machine
end

