-- ==== Sys2Proof/Machine/Flags.lean ====
section
/-! DEFINITION. The flag values that six instructions write to VF (spec/10_state.md R22), and the order of the two writes
(R23). A flag is always exactly 0 or 1 (spec/42_alu.md R120). -/

namespace Sys2Proof.Machine

/-- A truth value as a flag. -/
def flagByte (c : Bool) : Byte := if c then 1#8 else 0#8

/-- Carry of `8XY4`: the sum exceeds 255 (R127). -/
def carryFlag (a b : Byte) : Byte := flagByte (decide (255 < a.toNat + b.toNat))

/-- No borrow of `8XY5` and `8XY7`: the minuend is at least the subtrahend (R128, R130). -/
def noBorrowFlag (minuend subtrahend : Byte) : Byte := flagByte (decide (subtrahend.toNat ≤ minuend.toNat))

/-- The bit that `8XY6` shifts out, the old bit 0 (R129). -/
def shiftRightFlag (a : Byte) : Byte := flagByte (a.getLsbD 0)

/-- The bit that `8XYE` shifts out, the old bit 7 (R131). -/
def shiftLeftFlag (a : Byte) : Byte := flagByte (a.getLsbD 7)

/-- The collision flag of `DXYN` (R152). -/
def collisionFlag (coll : Bool) : Byte := flagByte coll

/-- Write the result to `V[x]`, then the flag to VF, so that with `x = 15` the flag stays (R23, decision D7). -/
def State.setRegFlag (s : State) (x : RegId) (result flag : Byte) : State := (s.setReg x result).setReg vf flag

end Sys2Proof.Machine
end

