-- ==== Sys2Proof/Machine/Operands.lean ====
section
/-! DEFINITION. Operand forms: registers, immediates as they stand (spec/30_encoding.md R75), the one addressing mode for
data (spec/43_index_memory.md R146), and the values the arithmetic of spec/42_alu.md gives. -/

namespace Sys2Proof.Machine

/-- An address immediate in a 16-bit register: zero-extended (R75). -/
def addrImm (nnn : Addr12) : Word := nnn.zeroExtend 16

/-- The address of element `k` of a transfer at I; the access reduces it modulo 4096 (R146). -/
def State.effAddr (s : State) (k : Nat) : Nat := s.i.toNat + k

/-- The key that `V[x]` names: its low four bits (spec/45_keys_timers.md R160, decision D13). -/
def State.keyIndex (s : State) (x : RegId) : Nat := (s.reg x).toNat % 16

/-- The address of the glyph for a byte: `0x050 + 5 * v` over the whole byte (R142, decision D14). -/
def glyphAddr (v : Byte) : Word := BitVec.ofNat 16 (Config.fontBase + Config.glyphBytes * v.toNat)

/-- The three decimal digits of a byte, hundreds first (R143; the order is general knowledge, PRESUMED:
notes/assumptions/6.md). -/
def decimalDigits (v : Byte) : List Byte :=
  [BitVec.ofNat 8 (v.toNat / 100), BitVec.ofNat 8 (v.toNat / 10 % 10), BitVec.ofNat 8 (v.toNat % 10)]

/-- The absolute difference, the result of both subtractions (R128; R130 by decision D9). -/
def absDiff (a b : Byte) : Byte := if b.toNat ≤ a.toNat then a - b else b - a

/-- `V[0]` to `V[x]` in order (R144). -/
def State.regsUpTo (s : State) (x : RegId) : List Byte :=
  (List.range (x.toNat + 1)).map (fun k => s.reg (BitVec.ofNat 4 k))

/-- Load `n` registers from V0 on with the bytes at `a`, `a + 1`, ..., in ascending order (R145). -/
def State.loadRegsFrom (s : State) (a : Nat) : Nat → State
  | 0 => s
  | n + 1 => (s.loadRegsFrom a n).setReg (BitVec.ofNat 4 n) (s.readByte (a + n))

end Sys2Proof.Machine
end

