-- ==== Sys2Proof/Machine/Alu.lean ====
section
/-! DEFINITION. Register load, arithmetic, logic, shifts and random (spec/42_alu.md). Every instruction here ends with
`next`. -/

namespace Sys2Proof.Machine

/-- An instruction that writes one register and no flag. -/
def writeReg (x : RegId) (r : Byte) (s : State) : Result := .next (s.setReg x r).advance

/-- An instruction that writes its result and then its flag (R120). -/
def writeRegFlag (x : RegId) (r flag : Byte) (s : State) : Result := .next (s.setRegFlag x r flag).advance

/-- `LD Vx, nn` (R121). -/
def execLdImm (x : RegId) (nn : Byte) (s : State) : Result := writeReg x nn s

/-- `ADD Vx, nn` (R122): modulo 256, no flag. -/
def execAddImm (x : RegId) (nn : Byte) (s : State) : Result := writeReg x (s.reg x + nn) s

/-- `LD Vx, Vy` (R123). PRESUMED: the spec gives the operation from general knowledge (G2), notes/assumptions/5.md. -/
def execLdReg (x y : RegId) (s : State) : Result := writeReg x (s.reg y) s

/-- `OR Vx, Vy` (R124): VF unchanged (decision D8). -/
def execOrReg (x y : RegId) (s : State) : Result := writeReg x (s.reg x ||| s.reg y) s

/-- `AND Vx, Vy` (R125): VF unchanged (decision D8). -/
def execAndReg (x y : RegId) (s : State) : Result := writeReg x (s.reg x &&& s.reg y) s

/-- `XOR Vx, Vy` (R126): VF unchanged (decision D8). -/
def execXorReg (x y : RegId) (s : State) : Result := writeReg x (s.reg x ^^^ s.reg y) s

/-- `ADD Vx, Vy` (R127). -/
def execAddReg (x y : RegId) (s : State) : Result :=
  writeRegFlag x (s.reg x + s.reg y) (carryFlag (s.reg x) (s.reg y)) s

/-- `SUB Vx, Vy` (R128): the absolute difference; minuend `V[X]`. -/
def execSubReg (x y : RegId) (s : State) : Result :=
  writeRegFlag x (absDiff (s.reg x) (s.reg y)) (noBorrowFlag (s.reg x) (s.reg y)) s

/-- `SHR Vx` (R129): `V[X]` in place; `Y` is ignored. -/
def execShr (x _y : RegId) (s : State) : Result := writeRegFlag x (s.reg x >>> 1) (shiftRightFlag (s.reg x)) s

/-- `SUBN Vx, Vy` (R130): the absolute difference; minuend `V[Y]` (decision D9). -/
def execSubnReg (x y : RegId) (s : State) : Result :=
  writeRegFlag x (absDiff (s.reg y) (s.reg x)) (noBorrowFlag (s.reg y) (s.reg x)) s

/-- `SHL Vx` (R131): `V[X]` in place; `Y` is ignored (decision D10). -/
def execShl (x _y : RegId) (s : State) : Result := writeRegFlag x (s.reg x <<< 1) (shiftLeftFlag (s.reg x)) s

/-- The unmatched words of family 8 (R132): no operation. -/
def execNopAlu (_x _y : RegId) (_n : Nibble) (s : State) : Result := .next s.advance

/-- `RND Vx, nn` (R133): one byte is drawn, also when `nn` is 0; the byte is a free value (notes/assumptions/3.md). -/
def execRnd (x : RegId) (nn : Byte) (s : State) : Result := .next (s.rndDrawn.setReg x (nn &&& s.rndByte)).advance

end Sys2Proof.Machine
end

