-- ==== Sys2Proof/Machine/Display.lean ====
section
/-! DEFINITION. Clearing the framebuffer and drawing sprites (spec/44_display.md). -/

namespace Sys2Proof.Machine

/-- `CLS` (R151): every pixel 0; VF untouched. -/
def execCls (s : State) : Result := .next (s.setFb Framebuffer.clear).advance

/-- The canvas after drawing `n` sprite rows from I with its top-left pixel at (`V[x]`, `V[y]`) (R152). -/
def State.drawSprite (s : State) (x y : RegId) (n : Nibble) : Canvas :=
  (Canvas.mk s.fb false).plotRows (s.reg x).toNat (s.reg y).toNat (s.readBytes (s.effAddr 0) n.toNat)

/-- `DRW Vx, Vy, n` (R152): the coordinates are read before VF is written. -/
def execDrw (x y : RegId) (n : Nibble) (s : State) : Result :=
  .next (((s.setFb (s.drawSprite x y n).fb).setReg vf (collisionFlag (s.drawSprite x y n).coll)).advance)

end Sys2Proof.Machine
end

