-- ==== Sys2Proof/Machine/Flow.lean ====
section
/-! DEFINITION. Jumps, calls, returns and SYS (spec/40_flow.md). -/

namespace Sys2Proof.Machine

/-- `RET` (R102): StackUnderflow on an empty stack, else PC becomes the popped address plus 2. -/
def execRet (s : State) : Result :=
  match s.pop with
  | some (a, t) => .next (t.setPc (a.toNat + 2))
  | none => raise .stackUnderflow

/-- `SYS nnn` (R101): no operation. -/
def execSys (_nnn : Addr12) (s : State) : Result := .next s.advance

/-- `JP nnn` (R103). -/
def execJp (nnn : Addr12) (s : State) : Result := .next (s.setPc nnn.toNat)

/-- `CALL nnn` (R104): StackOverflow on a full stack, else PC itself is pushed. -/
def execCall (nnn : Addr12) (s : State) : Result :=
  match s.push s.pc with
  | some t => .next (t.setPc nnn.toNat)
  | none => raise .stackOverflow

/-- `JP V0, nnn` (R105). -/
def execJpV0 (nnn : Addr12) (s : State) : Result := .next (s.setPc (nnn.toNat + (s.reg 0#4).toNat))

end Sys2Proof.Machine
end

