-- ==== Sys2Proof/Machine/IndexMemory.lean ====
section
/-! DEFINITION. The index register and memory transfers (spec/43_index_memory.md). Every instruction here ends with `next`
and writes no flag; the transfers leave I unchanged (R146, decision D17). -/

namespace Sys2Proof.Machine

/-- `LD I, nnn` (R140). -/
def execLdI (nnn : Addr12) (s : State) : Result := .next (s.setI (addrImm nnn)).advance

/-- `ADD I, Vx` (R141): modulo 65536, no flag (decision D4). -/
def execAddIVx (x : RegId) (s : State) : Result := .next (s.setI (s.i + (s.reg x).zeroExtend 16)).advance

/-- `LD F, Vx` (R142). -/
def execLdFVx (x : RegId) (s : State) : Result := .next (s.setI (glyphAddr (s.reg x))).advance

/-- `LD B, Vx` (R143): the three decimal digits, one per byte. -/
def execLdBVx (x : RegId) (s : State) : Result :=
  .next (s.writeBytes (s.effAddr 0) (decimalDigits (s.reg x))).advance

/-- `LD [I], Vx` (R144): `V[0]` to `V[X]` to memory. -/
def execStoreRegs (x : RegId) (s : State) : Result := .next (s.writeBytes (s.effAddr 0) (s.regsUpTo x)).advance

/-- `LD Vx, [I]` (R145): memory to `V[0]` to `V[X]`. -/
def execLoadRegs (x : RegId) (s : State) : Result := .next (s.loadRegsFrom (s.effAddr 0) (x.toNat + 1)).advance

end Sys2Proof.Machine
end

