-- ==== Sys2Proof/Machine/KeysTimers.lean ====
section
/-! DEFINITION. Keypad and timer instructions (spec/45_keys_timers.md), with the unmatched words of families E and F. The
timer tick is no part of them (R168): it is `State.tick`. -/

namespace Sys2Proof.Machine

/-- `SKP Vx` (R160): skip if the key that `V[x]` names is down. -/
def execSkp (x : RegId) (s : State) : Result := .next (s.skipIf (s.keyDown (s.keyIndex x)))

/-- `SKNP Vx` (R161): skip if the key that `V[x]` names is up. -/
def execSknp (x : RegId) (s : State) : Result := .next (s.skipIf (!s.keyDown (s.keyIndex x)))

/-- The unmatched words of family E (R166): no operation. -/
def execNopKey (_x : RegId) (_nn : Byte) (s : State) : Result := .next s.advance

/-- `LD Vx, DT` (R163). -/
def execLdVxDt (x : RegId) (s : State) : Result := .next (s.setReg x s.dt).advance

/-- `LD Vx, K` (R162): with no key down nothing changes and PC stays; else `V[x]` takes the least key down. -/
def execLdVxK (x : RegId) (s : State) : Result :=
  match s.lowestKey with
  | none => .next s
  | some k => .next (s.setReg x (BitVec.ofNat 8 k)).advance

/-- `LD DT, Vx` (R164). -/
def execLdDtVx (x : RegId) (s : State) : Result := .next (s.setDt (s.reg x)).advance

/-- `LD ST, Vx` (R165). -/
def execLdStVx (x : RegId) (s : State) : Result := .next (s.setSt (s.reg x)).advance

/-- The unmatched words of family F (R167): no operation. -/
def execNopMisc (_x : RegId) (_nn : Byte) (s : State) : Result := .next s.advance

end Sys2Proof.Machine
end

