-- ==== Sys2Proof/Machine/Skip.lean ====
section
/-! DEFINITION. Conditional skips on registers (spec/41_skip.md). -/

namespace Sys2Proof.Machine

/-- `SE Vx, nn` (R111). -/
def execSeImm (x : RegId) (nn : Byte) (s : State) : Result := .next (s.skipIf (s.reg x == nn))

/-- `SNE Vx, nn` (R112). -/
def execSneImm (x : RegId) (nn : Byte) (s : State) : Result := .next (s.skipIf (s.reg x != nn))

/-- `SE Vx, Vy` (R113). -/
def execSeReg (x y : RegId) (s : State) : Result := .next (s.skipIf (s.reg x == s.reg y))

/-- The alias words of `SE Vx, Vy`: the low nibble is ignored (spec/30_encoding.md R77, decision D11). -/
def execSeRegAlias (x y : RegId) (_n : Nibble) (s : State) : Result := .next (s.skipIf (s.reg x == s.reg y))

/-- `SNE Vx, Vy` (R114). -/
def execSneReg (x y : RegId) (s : State) : Result := .next (s.skipIf (s.reg x != s.reg y))

/-- The alias words of `SNE Vx, Vy`: the low nibble is ignored (R77, decision D11). -/
def execSneRegAlias (x y : RegId) (_n : Nibble) (s : State) : Result := .next (s.skipIf (s.reg x != s.reg y))

end Sys2Proof.Machine
end

