-- ==== Sys2Proof/Machine/Step.lean ====
section
/-! DEFINITION. One `step()` (spec/35_execution_cycle.md R90): fetch, decode, execute, tick. -/

namespace Sys2Proof.Machine

/-- One call of `step()` with the key snapshot `s.keys` and the random byte `Config.randomByte s.source s.draws` (R90, R97). -/
def step (s : State) : Host.Outcome State Fault Refusal := finishStep (exec (decode s.fetchWord) s)

/-- `s` with the instruction whose bits are `w` stored where the next step fetches: at PC and PC + 1. It stands for the
part of `loadProgram` that puts one word there; see notes/assumptions/11.md. -/
def State.withFetchWord (s : State) (nbits w : Nat) : State := s.placeWord (tableWord nbits w)

end Sys2Proof.Machine
end

