-- ==== Sys2Proof/Machine/HostInterface.lean ====
section
/-! DEFINITION. What the host does to the core and reads from it between steps (spec/50_host_interface.md), and a run as a
finite sequence of host operations (spec/00_scope.md R9). -/

namespace Sys2Proof.Machine

/-- The error a host operation can return (spec/60_exceptions.md R195). -/
inductive HostError where
  /-- `loadProgram` was given more than 3584 bytes. -/
  | romTooLarge
  deriving DecidableEq, Repr

/-- `reset()` (R171, spec/70_reset_and_hazards.md R220): every item of core state takes its reset value, FONT seeded anew;
the key flags and the random source are the host's and are not touched (spec/10_state.md R42). -/
def resetCore (s : State) : State := { State.construct s.font s.source with keys := s.keys, draws := s.draws }

/-- `loadProgram(bytes)` (R172): the bytes go to 0x200 on; too many are refused with nothing written. -/
def loadProgram (bytes : List Byte) (s : State) : Except HostError State :=
  if Config.romMax < bytes.length then .error .romTooLarge else .ok (s.writeBytes Config.progBase bytes)

/-- `setKey(index, pressed)` (R174): one key flag; an index outside 0 to 15 has no effect (decision D26). -/
def setKey (index : Nat) (pressed : Bool) (s : State) : State :=
  if index < 16 then
    { s with keys := if pressed then s.keys ||| (1#16 <<< index) else s.keys &&& ~~~(1#16 <<< index) }
  else s

/-- The host injects a random source (R178), at whatever place the source is. Two instances share one only if the host
injects the same into both; then the place at which one finds it is the host's affair too (R180). -/
def injectSource (source place : Nat) (s : State) : State := { s with source := source, draws := place }

/-- `framebufferSnapshot()` (R176): the 64×32 grid, row by row. -/
def framebufferSnapshot (s : State) : Vector (Vector Bool 64) 32 :=
  Vector.ofFn (fun y => Vector.ofFn (fun x => s.pixel x.val y.val))

/-- `soundActive()` (R177): the sound timer is not 0. -/
def soundActive (s : State) : Bool := s.st != 0#8

/-- What `step()` returns to the host (R173). -/
inductive StepReport where
  | ok
  | fault (f : Fault)
  /-- Never returned: no instruction is refused. -/
  | refused
  deriving DecidableEq, Repr

/-- `step()` as the host sees it: on a fault the state is the state before the step (spec/60_exceptions.md R196). -/
def hostStep (s : State) : State × StepReport :=
  match step s with
  | .next t => (t, .ok)
  | .fault f => (s, .fault f)
  | .refused _ => (s, .refused)

/-- The operations of the host that can change what a later step sees (R170, R178, R179). -/
inductive HostMove where
  | reset
  | loadProgram (bytes : List Byte)
  | setKey (index : Nat) (pressed : Bool)
  | injectSource (source place : Nat)
  | step
  deriving DecidableEq, Repr

/-- The state after one host operation; a refused load and a faulting step leave it as it was (R172, R196). -/
def applyMove (m : HostMove) (s : State) : State :=
  match m with
  | .reset => resetCore s
  | .loadProgram bytes =>
    match Sys2Proof.Machine.loadProgram bytes s with
    | .ok t => t
    | .error _ => s
  | .setKey index pressed => Sys2Proof.Machine.setKey index pressed s
  | .injectSource source place => Sys2Proof.Machine.injectSource source place s
  | .step => (hostStep s).1

/-- A run: host operations one after another (R8, R9). -/
def hostRun (ms : List HostMove) (s : State) : State := ms.foldl (fun s m => applyMove m s) s

end Sys2Proof.Machine
end

