-- ==== Sys2Proof/Safety.lean ====
section
/-! DEFINITION. The terms statements use: the invariant of every reachable state, what it means that a part of the state is
unchanged, which parts an instruction may touch (spec/10_state.md R43), and what a sprite covers. -/

namespace Sys2Proof.Machine

/-! ### The invariant -/

/-- The entries of the call stack in use, oldest first (R32). -/
def State.liveEntries (s : State) : List Word := s.stack.toList.take s.sp.val

/-- What holds after reset and after every step: PC is at most 0x0FFF (R25), every live stack entry is (R35), and memory is
in its canonical form. -/
abbrev State.Inv (s : State) : Prop :=
  s.pc.toNat ≤ 0x0FFF ∧ (∀ w ∈ s.liveEntries, w.toNat ≤ 0x0FFF) ∧ s.mem.wf s.font = true

/-- PC and every live stack entry are even (R26). -/
abbrev State.EvenPc (s : State) : Prop := s.pc.toNat % 2 = 0 ∧ ∀ w ∈ s.liveEntries, w.toNat % 2 = 0

/-! ### What is unchanged from `s` to `t` -/

/-- Every general register but those listed. -/
def SameRegsBut (l : List RegId) (s t : State) : Prop := ∀ r, r ∉ l → t.reg r = s.reg r

/-- Every byte of memory. -/
def SameMemory (s t : State) : Prop := ∀ a, t.readByte a = s.readByte a

/-- Every byte of memory but those whose address is, modulo 4096, one of `base`, ..., `base + n - 1`. -/
def SameMemoryOutside (base n : Nat) (s t : State) : Prop :=
  ∀ a, (∀ k, k < n → a % 4096 ≠ (base + k) % 4096) → t.readByte a = s.readByte a

/-- Every pixel. -/
def SamePixels (s t : State) : Prop := ∀ x y, t.pixel x y = s.pixel x y

/-- The call stack and its depth. -/
def SameStack (s t : State) : Prop := t.stack = s.stack ∧ t.sp = s.sp

/-- Both timers. -/
def SameTimers (s t : State) : Prop := t.dt = s.dt ∧ t.st = s.st

/-- What an instance is given from outside: the key flags, the random source and the place in it, and FONT. -/
def SameInputs (s t : State) : Prop := t.keys = s.keys ∧ t.source = s.source ∧ t.draws = s.draws ∧ t.font = s.font

/-- Everything but PC and the listed registers: the frame of an instruction that works on registers alone. -/
def OnlyRegs (l : List RegId) (s t : State) : Prop :=
  SameRegsBut l s t ∧ t.i = s.i ∧ SameMemory s t ∧ SamePixels s t ∧ SameStack s t ∧ SameTimers s t ∧ SameInputs s t

/-! ### What an instruction may touch (the access table, R43) -/

/-- The registers `V[0]` to `V[x]`. -/
def regsThrough (x : RegId) : List RegId := (List.range (x.toNat + 1)).map (fun k => BitVec.ofNat 4 k)

/-- The general registers an instruction may write, VF as a flag among them. -/
def destRegs : Instr → List RegId
  | .ldImm x _ | .addImm x _ | .ldReg x _ | .orReg x _ | .andReg x _ | .xorReg x _ | .rnd x _ | .ldVxDt x | .ldVxK x => [x]
  | .addReg x _ | .subReg x _ | .shr x _ | .subnReg x _ | .shl x _ => [x, vf]
  | .drw _ _ _ => [vf]
  | .loadRegs x => regsThrough x
  | .cls | .ret | .sys _ | .jp _ | .call _ | .seImm _ _ | .sneImm _ _ | .seReg _ _ | .seRegAlias _ _ _ | .nopAlu _ _ _
  | .sneReg _ _ | .sneRegAlias _ _ _ | .ldI _ | .jpV0 _ | .skp _ | .sknp _ | .nopKey _ _ | .ldDtVx _ | .ldStVx _
  | .addIVx _ | .ldFVx _ | .ldBVx _ | .storeRegs _ | .nopMisc _ _ => []

/-- The six instructions that write VF as a flag (R22). -/
def flagWriters : Instr → Bool
  | .addReg _ _ | .subReg _ _ | .shr _ _ | .subnReg _ _ | .shl _ _ | .drw _ _ _ => true
  | _ => false

/-- The bytes of memory an instruction may write: the base address and how many. -/
def storedBytes (i : Instr) (s : State) : Nat × Nat :=
  match i with
  | .ldBVx _ => (s.effAddr 0, 3)
  | .storeRegs x => (s.effAddr 0, x.toNat + 1)
  | _ => (0, 0)

/-- The instruction reads the key flags (R97). -/
def readsKeys : Instr → Bool
  | .skp _ | .sknp _ | .ldVxK _ => true
  | _ => false

/-- The instruction draws a random byte (R97). -/
def readsRandom : Instr → Bool
  | .rnd _ _ => true
  | _ => false

/-- The state a result holds, with its key flags replaced: for comparing two runs. -/
def withKeys (k : BitVec 16) : Result → Result
  | .next t => .next { t with keys := k }
  | r => r

/-- The state a result holds, with another random source and another place in it. -/
def withSource (source n : Nat) : Result → Result
  | .next t => .next { t with source := source, draws := n }
  | r => r

/-! ### Sprites -/

/-- The sprite of `DXYN` has a bit of 1 at column `px` and row `py` of the screen: the bit of row `py - V[y]` and column
`px - V[x]`, with no reduction of any coordinate (R150, R152). -/
def spriteCovers (s : State) (x y : RegId) (n : Nibble) (px py : Nat) : Prop :=
  ∃ r c, r < n.toNat ∧ c < 8 ∧ px = (s.reg x).toNat + c ∧ py = (s.reg y).toNat + r ∧
    (s.readByte (s.i.toNat + r)).getLsbD (7 - c) = true

end Sys2Proof.Machine
end

