-- ==== Sys2Proof/Certificates/Slice0/Obligations.lean ====
section
/-! DEFINITION. What is to be proved of the machine. Each docstring names the rule of spec/ that it formalises; where a clause
rests on a decision or on general knowledge that the spec marks as its own, the docstring says so and names it. -/

open Sys2Proof Sys2Proof.Machine

/-! ### Encoding and decoding (spec/30_encoding.md) -/

/-- A few words, read from the spec's own patterns and examples, decode to the instructions they stand for (R71, R73). -/
def Obligations.SpecWordsDecode : Prop :=
  decode 0x00E0#16 = .cls ∧ decode 0x00EE#16 = .ret ∧ decode 0x00E1#16 = .sys 0x0E1#12 ∧
  decode 0x1204#16 = .jp 0x204#12 ∧ decode 0x2210#16 = .call 0x210#12 ∧ decode 0x3A42#16 = .seImm 0xA#4 0x42#8 ∧
  decode 0x512F#16 = .seRegAlias 1#4 2#4 0xF#4 ∧ decode 0x8125#16 = .subReg 1#4 2#4 ∧ decode 0x812E#16 = .shl 1#4 2#4 ∧
  decode 0x812F#16 = .nopAlu 1#4 2#4 0xF#4 ∧ decode 0xA300#16 = .ldI 0x300#12 ∧ decode 0xD125#16 = .drw 1#4 2#4 5#4 ∧
  decode 0xE3A1#16 = .sknp 3#4 ∧ decode 0xF255#16 = .storeRegs 2#4 ∧ decode 0xF175#16 = .nopMisc 1#4 0x75#8

/-- Decoding the word of a well-formed instruction gives it back: no bit of an operand is lost (R71, R73, R79). -/
def Obligations.DecodeOfEncodeIsIdentity : Prop :=
  ∀ i : Instr, i.WellFormed → decode (encode i) = i

/-- Every one of the 65536 words decodes to a well-formed instruction, and that instruction encodes to the same word
(R74: the decoder is total). -/
def Obligations.EncodeOfDecodeIsIdentity : Prop :=
  ∀ w : Word, (decode w).WellFormed ∧ encode (decode w) = w

/-- R73: the first row of the table, top to bottom, whose `(ir & mask) = match` holds gives the instruction, with the
operands its pattern names. -/
def Obligations.DecodeIsFirstMatchingRow : Prop :=
  ∀ w : Word, (firstRow w).map (fun r => r.build w) = some (decode w)

/-! ### One step (spec/35_execution_cycle.md) -/

/-- R90, R91: when the two bytes at PC, big-endian, decode to the well-formed instruction `i`, a step is `i` executed,
followed on success by one tick of both timers and by nothing else; a fault ends the step as it is, and no instruction is
refused. -/
def Obligations.StepRunsTheFetchedInstruction : Prop :=
  ∀ (s : State) (i : Instr), i.WellFormed →
    decode (s.readByte s.pc.toNat ++ s.readByte ((s.pc.toNat + 1) % 4096)) = i →
    (∀ t, exec i s = .next t →
      ∃ u, step s = .next u ∧ u.dt.toNat = t.dt.toNat - 1 ∧ u.st.toNat = t.st.toNat - 1 ∧
        u = { t with dt := u.dt, st := u.st }) ∧
    (∀ f, exec i s = .fault f → step s = .fault f) ∧
    (∀ r, exec i s ≠ .refused r ∧ step s ≠ .refused r)

/-- R93: at the end of every step whose outcome is `Ok`, whatever the instruction was, each timer is one less than what the
instruction left in it, and 0 stays 0; only `FX15` and `FX18` leave anything but the old value. -/
def Obligations.TimersTickOncePerStep : Prop :=
  ∀ s t : State, step s = .next t →
    (∀ x, decode s.fetchWord = .ldDtVx x → t.dt.toNat = (s.reg x).toNat - 1) ∧
    ((∀ x, decode s.fetchWord ≠ .ldDtVx x) → t.dt.toNat = s.dt.toNat - 1) ∧
    (∀ x, decode s.fetchWord = .ldStVx x → t.st.toNat = (s.reg x).toNat - 1) ∧
    ((∀ x, decode s.fetchWord ≠ .ldStVx x) → t.st.toNat = s.st.toNat - 1)

/-- R96: from every state whose PC is in range, a step answers a state whose PC is in range or one of the two stack faults;
no step is refused. That PC is in range is part of the invariant of `StepKeepsInvariant`. -/
def Obligations.StepIsTotal : Prop :=
  ∀ s : State, s.pc.toNat ≤ 0x0FFF →
    (∃ t, step s = .next t ∧ t.pc.toNat ≤ 0x0FFF) ∨ step s = .fault .stackUnderflow ∨ step s = .fault .stackOverflow

/-- When a step faults (R95): exactly on `00EE` with an empty stack, and on `2NNN` with sixteen entries. That the second is a
fault is the spec's decision D5 (log entry 8). -/
def Obligations.StepFaultsExactlyAtStackBounds : Prop :=
  ∀ s : State,
    (step s = .fault .stackUnderflow ↔ s.fetchWord = 0x00EE#16 ∧ s.sp.val = 0) ∧
    (step s = .fault .stackOverflow ↔ fieldT s.fetchWord = 0x2#4 ∧ s.sp.val = 16)

/-! ### Control flow (spec/40_flow.md) -/

/-- R101, R78: `0NNN` other than `00E0` and `00EE` is SYS: PC + 2 and nothing else; no call is made. That PC is reduced
modulo 4096 is the spec's decision D2 (log entry 8). -/
def Obligations.SysOnlyAdvancesPc : Prop :=
  ∀ (nnn : Addr12) (s : State),
    (nnn ≠ 0x0E0#12 → nnn ≠ 0x0EE#12 → decode (0x0#4 ++ nnn) = .sys nnn) ∧
    ∃ t, exec (.sys nnn) s = .next t ∧ t.pc.toNat = (s.pc.toNat + 2) % 4096 ∧ OnlyRegs [] s t

/-- R103: `1NNN` puts NNN into PC, odd or even, and changes nothing else. -/
def Obligations.JumpPutsTargetInPc : Prop :=
  ∀ (nnn : Addr12) (s : State),
    decode (0x1#4 ++ nnn) = .jp nnn ∧
    ∃ t, exec (.jp nnn) s = .next t ∧ t.pc.toNat = nnn.toNat ∧ OnlyRegs [] s t

/-- `BNNN` (R105): PC is NNN + V0 reduced modulo 4096; the reduction is the spec's decision D2 (log entry 8). -/
def Obligations.JumpV0AddsRegisterZero : Prop :=
  ∀ (nnn : Addr12) (s : State),
    decode (0xB#4 ++ nnn) = .jpV0 nnn ∧
    ∃ t, exec (.jpV0 nnn) s = .next t ∧ t.pc.toNat = (nnn.toNat + (s.reg 0#4).toNat) % 4096 ∧ OnlyRegs [] s t

/-- `2NNN` (R104): with room on the stack the address of the call itself is pushed and PC is NNN; with sixteen entries the
instruction faults, which is the spec's decision D5 (log entry 8). -/
def Obligations.CallPushesItsOwnAddress : Prop :=
  ∀ (nnn : Addr12) (s : State),
    decode (0x2#4 ++ nnn) = .call nnn ∧
    (∀ h : s.sp.val < 16,
      ∃ t, exec (.call nnn) s = .next t ∧ t.pc.toNat = nnn.toNat ∧ t.sp.val = s.sp.val + 1 ∧
        t.stack[s.sp.val] = s.pc ∧ (∀ (k : Nat) (hk : k < 16), k ≠ s.sp.val → t.stack[k] = s.stack[k]) ∧
        SameRegsBut [] s t ∧ t.i = s.i ∧ SameMemory s t ∧ SamePixels s t ∧ SameTimers s t ∧ SameInputs s t) ∧
    (s.sp.val = 16 → exec (.call nnn) s = .fault .stackOverflow)

/-- R102, R34: `00EE` takes the newest entry off the stack and PC becomes that entry plus 2; with an empty stack the
instruction faults, and so does the step that fetched it. That PC is reduced modulo 4096 is the spec's decision D2 (log
entry 8). -/
def Obligations.ReturnPopsAndAddsTwo : Prop :=
  ∀ s : State,
    decode 0x00EE#16 = .ret ∧
    (∀ _h : 0 < s.sp.val,
      ∃ t, exec .ret s = .next t ∧ t.sp.val + 1 = s.sp.val ∧
        t.pc.toNat = ((s.stack[s.sp.val - 1]'(by omega)).toNat + 2) % 4096 ∧ t.stack = s.stack ∧
        SameRegsBut [] s t ∧ t.i = s.i ∧ SameMemory s t ∧ SamePixels s t ∧ SameTimers s t ∧ SameInputs s t) ∧
    (s.sp.val = 0 → exec .ret s = .fault .stackUnderflow) ∧
    (s.sp.val = 0 → s.fetchWord = 0x00EE#16 → step s = .fault .stackUnderflow)

/-- The calling convention (R106, derived there from R102 and R104): after a call, whatever ran in between and left the
stack as the call did, a return resumes at the instruction after the call, with the stack as it was before the call. That PC
is reduced modulo 4096 is the spec's decision D2 (log entry 8). -/
def Obligations.ReturnUndoesCall : Prop :=
  ∀ (nnn : Addr12) (s t u : State), exec (.call nnn) s = .next t → u.stack = t.stack → u.sp = t.sp →
    ∃ v, exec .ret u = .next v ∧ v.pc.toNat = (s.pc.toNat + 2) % 4096 ∧ v.sp = s.sp ∧ v.liveEntries = s.liveEntries

/-! ### Skips (spec/41_skip.md) -/

/-- R110, R111, R112: the skips on registers compare for equality, put PC + 4 or PC + 2 into PC modulo 4096, and change
nothing else. That PC is reduced modulo 4096 is the spec's decision D2 (log entry 8). -/
def Obligations.SkipsCompareForEquality : Prop :=
  ∀ (x y : RegId) (nn : Byte) (s : State),
    (decode (0x3#4 ++ x ++ nn) = .seImm x nn ∧ ∃ t, exec (.seImm x nn) s = .next t ∧
      t.pc.toNat = (s.pc.toNat + if (s.reg x).toNat = nn.toNat then 4 else 2) % 4096 ∧ OnlyRegs [] s t) ∧
    (decode (0x4#4 ++ x ++ nn) = .sneImm x nn ∧ ∃ t, exec (.sneImm x nn) s = .next t ∧
      t.pc.toNat = (s.pc.toNat + if (s.reg x).toNat = nn.toNat then 2 else 4) % 4096 ∧ OnlyRegs [] s t) ∧
    (decode (0x5#4 ++ x ++ y ++ 0#4) = .seReg x y ∧ ∃ t, exec (.seReg x y) s = .next t ∧
      t.pc.toNat = (s.pc.toNat + if (s.reg x).toNat = (s.reg y).toNat then 4 else 2) % 4096 ∧ OnlyRegs [] s t) ∧
    (decode (0x9#4 ++ x ++ y ++ 0#4) = .sneReg x y ∧ ∃ t, exec (.sneReg x y) s = .next t ∧
      t.pc.toNat = (s.pc.toNat + if (s.reg x).toNat = (s.reg y).toNat then 2 else 4) % 4096 ∧ OnlyRegs [] s t)

/-- The words `5XYn` and `9XYn` with n not 0 execute as with n = 0 (R77). The spec's own decision D11 (log entry 8). That PC
is reduced modulo 4096 is the spec's decision D2 (log entry 8). -/
def Obligations.AliasSkipsIgnoreLowNibble : Prop :=
  ∀ (x y : RegId) (n : Nibble) (s : State), n ≠ 0#4 →
    (decode (0x5#4 ++ x ++ y ++ n) = .seRegAlias x y n ∧ exec (.seRegAlias x y n) s = exec (.seReg x y) s ∧
      ∃ t, exec (.seRegAlias x y n) s = .next t ∧
        t.pc.toNat = (s.pc.toNat + if s.reg x = s.reg y then 4 else 2) % 4096 ∧ OnlyRegs [] s t) ∧
    (decode (0x9#4 ++ x ++ y ++ n) = .sneRegAlias x y n ∧ exec (.sneRegAlias x y n) s = exec (.sneReg x y) s ∧
      ∃ t, exec (.sneRegAlias x y n) s = .next t ∧
        t.pc.toNat = (s.pc.toNat + if s.reg x = s.reg y then 2 else 4) % 4096 ∧ OnlyRegs [] s t)

/-! ### Arithmetic (spec/42_alu.md) -/

/-- R121, R122: `6XNN` loads NN; `7XNN` adds NN modulo 256. Neither writes a flag. That PC is reduced modulo 4096 is the
spec's decision D2 (log entry 8). -/
def Obligations.ImmediateLoadAndAdd : Prop :=
  ∀ (x : RegId) (nn : Byte) (s : State),
    (decode (0x6#4 ++ x ++ nn) = .ldImm x nn ∧ ∃ t, exec (.ldImm x nn) s = .next t ∧ t.reg x = nn ∧
      t.pc.toNat = (s.pc.toNat + 2) % 4096 ∧ OnlyRegs [x] s t) ∧
    (decode (0x7#4 ++ x ++ nn) = .addImm x nn ∧ ∃ t, exec (.addImm x nn) s = .next t ∧
      (t.reg x).toNat = ((s.reg x).toNat + nn.toNat) % 256 ∧
      t.pc.toNat = (s.pc.toNat + 2) % 4096 ∧ OnlyRegs [x] s t)

/-- `8XY0` copies; `8XY1`, `8XY2`, `8XY3` combine bit by bit; VF is unchanged unless it is the destination. That `8XY0`
copies is general knowledge (G2, log entry 5); that VF is unchanged is the spec's decision D8 (log entry 8). That PC is
reduced modulo 4096 is the spec's decision D2 (log entry 8). -/
def Obligations.CopyAndLogicLeaveVf : Prop :=
  ∀ (x y : RegId) (s : State),
    (decode (0x8#4 ++ x ++ y ++ 0x0#4) = .ldReg x y ∧ ∃ t, exec (.ldReg x y) s = .next t ∧ t.reg x = s.reg y ∧
      t.pc.toNat = (s.pc.toNat + 2) % 4096 ∧ OnlyRegs [x] s t) ∧
    (decode (0x8#4 ++ x ++ y ++ 0x1#4) = .orReg x y ∧ ∃ t, exec (.orReg x y) s = .next t ∧
      (∀ k, (t.reg x).getLsbD k = ((s.reg x).getLsbD k || (s.reg y).getLsbD k)) ∧
      t.pc.toNat = (s.pc.toNat + 2) % 4096 ∧ OnlyRegs [x] s t) ∧
    (decode (0x8#4 ++ x ++ y ++ 0x2#4) = .andReg x y ∧ ∃ t, exec (.andReg x y) s = .next t ∧
      (∀ k, (t.reg x).getLsbD k = ((s.reg x).getLsbD k && (s.reg y).getLsbD k)) ∧
      t.pc.toNat = (s.pc.toNat + 2) % 4096 ∧ OnlyRegs [x] s t) ∧
    (decode (0x8#4 ++ x ++ y ++ 0x3#4) = .xorReg x y ∧ ∃ t, exec (.xorReg x y) s = .next t ∧
      (∀ k, (t.reg x).getLsbD k = ((s.reg x).getLsbD k ^^ (s.reg y).getLsbD k)) ∧
      t.pc.toNat = (s.pc.toNat + 2) % 4096 ∧ OnlyRegs [x] s t)

/-- R127: `8XY4` leaves the sum modulo 256 in V[X] and the carry in VF; with X = 15 the sum is lost and VF is the carry.
That PC is reduced modulo 4096 is the spec's decision D2 (log entry 8). -/
def Obligations.AddRecordsCarry : Prop :=
  ∀ (x y : RegId) (s : State),
    decode (0x8#4 ++ x ++ y ++ 0x4#4) = .addReg x y ∧
    ∃ t, exec (.addReg x y) s = .next t ∧
      (x ≠ 0xF#4 → (t.reg x).toNat = ((s.reg x).toNat + (s.reg y).toNat) % 256) ∧
      (t.reg 0xF#4).toNat = (if 255 < (s.reg x).toNat + (s.reg y).toNat then 1 else 0) ∧
      t.pc.toNat = (s.pc.toNat + 2) % 4096 ∧ OnlyRegs [x, 0xF#4] s t

/-- R128: `8XY5` leaves the absolute difference in V[X], and VF is 1 exactly when V[X] was at least V[Y]. That PC is reduced
modulo 4096 is the spec's decision D2 (log entry 8). -/
def Obligations.SubLeavesAbsoluteDifference : Prop :=
  ∀ (x y : RegId) (s : State),
    decode (0x8#4 ++ x ++ y ++ 0x5#4) = .subReg x y ∧
    ∃ t, exec (.subReg x y) s = .next t ∧
      (x ≠ 0xF#4 → (t.reg x).toNat = Int.natAbs ((s.reg x).toNat - (s.reg y).toNat : Int)) ∧
      (t.reg 0xF#4).toNat = (if (s.reg y).toNat ≤ (s.reg x).toNat then 1 else 0) ∧
      t.pc.toNat = (s.pc.toNat + 2) % 4096 ∧ OnlyRegs [x, 0xF#4] s t

/-- R129: `8XY6` halves V[X] in place, whatever Y is, and VF is its old bit 0. That PC is reduced modulo 4096 is the spec's
decision D2 (log entry 8). -/
def Obligations.ShrHalvesAndKeepsLowBit : Prop :=
  ∀ (x y : RegId) (s : State),
    decode (0x8#4 ++ x ++ y ++ 0x6#4) = .shr x y ∧
    ∃ t, exec (.shr x y) s = .next t ∧
      (x ≠ 0xF#4 → (t.reg x).toNat = (s.reg x).toNat / 2) ∧ (t.reg 0xF#4).toNat = (s.reg x).toNat % 2 ∧
      t.pc.toNat = (s.pc.toNat + 2) % 4096 ∧ OnlyRegs [x, 0xF#4] s t

/-- `8XY7` (R130) leaves the absolute difference in V[X], and VF is 1 exactly when V[Y] was at least V[X]; the result in the
borrow case is the spec's decision D9 (log entry 8). That PC is reduced modulo 4096 is the spec's decision D2 (log entry 8).
-/
def Obligations.SubnMirrorsSub : Prop :=
  ∀ (x y : RegId) (s : State),
    decode (0x8#4 ++ x ++ y ++ 0x7#4) = .subnReg x y ∧
    ∃ t, exec (.subnReg x y) s = .next t ∧
      (x ≠ 0xF#4 → (t.reg x).toNat = Int.natAbs ((s.reg y).toNat - (s.reg x).toNat : Int)) ∧
      (t.reg 0xF#4).toNat = (if (s.reg x).toNat ≤ (s.reg y).toNat then 1 else 0) ∧
      t.pc.toNat = (s.pc.toNat + 2) % 4096 ∧ OnlyRegs [x, 0xF#4] s t

/-- `8XYE` (R131) doubles V[X] modulo 256 in place, whatever Y is, and VF is its old bit 7; that V[X] is the operand is the
spec's decision D10 (log entry 8). That PC is reduced modulo 4096 is the spec's decision D2 (log entry 8). -/
def Obligations.ShlDoublesAndKeepsHighBit : Prop :=
  ∀ (x y : RegId) (s : State),
    decode (0x8#4 ++ x ++ y ++ 0xE#4) = .shl x y ∧
    ∃ t, exec (.shl x y) s = .next t ∧
      (x ≠ 0xF#4 → (t.reg x).toNat = 2 * (s.reg x).toNat % 256) ∧ (t.reg 0xF#4).toNat = (s.reg x).toNat / 128 ∧
      t.pc.toNat = (s.pc.toNat + 2) % 4096 ∧ OnlyRegs [x, 0xF#4] s t

/-- R76, R132, R166: the unmatched words of families 8, E and F do `next` and nothing else, and the step that runs one ends
well and ticks. That PC is reduced modulo 4096 is the spec's decision D2 (log entry 8). -/
def Obligations.UnmatchedWordsDoNothing : Prop :=
  ∀ (x y : RegId) (n : Nibble) (nn : Byte) (s : State),
    (n ∈ [0x8#4, 0x9#4, 0xA#4, 0xB#4, 0xC#4, 0xD#4, 0xF#4] → decode (0x8#4 ++ x ++ y ++ n) = .nopAlu x y n) ∧
    (nn ∉ [0x9E#8, 0xA1#8] → decode (0xE#4 ++ x ++ nn) = .nopKey x nn) ∧
    (nn ∉ [0x07#8, 0x0A#8, 0x15#8, 0x18#8, 0x1E#8, 0x29#8, 0x33#8, 0x55#8, 0x65#8] →
      decode (0xF#4 ++ x ++ nn) = .nopMisc x nn) ∧
    ∀ i : Instr, i = .nopAlu x y n ∨ i = .nopKey x nn ∨ i = .nopMisc x nn →
      (∃ t, exec i s = .next t ∧ t.pc.toNat = (s.pc.toNat + 2) % 4096 ∧ OnlyRegs [] s t) ∧
      (decode s.fetchWord = i → ∃ t, step s = .next t ∧ t.pc.toNat = (s.pc.toNat + 2) % 4096 ∧
        t.dt.toNat = s.dt.toNat - 1 ∧ t.st.toNat = s.st.toNat - 1)

/-- R133: `CXNN` draws exactly one byte of the random source, also when NN is 0, and leaves it masked with NN in V[X]. The
byte is a free value: the statement holds whatever it is. That PC is reduced modulo 4096 is the spec's decision D2 (log
entry 8). -/
def Obligations.RandomByteIsMasked : Prop :=
  ∀ (x : RegId) (nn : Byte) (s : State),
    decode (0xC#4 ++ x ++ nn) = .rnd x nn ∧
    ∃ t, exec (.rnd x nn) s = .next t ∧ t.draws = s.draws + 1 ∧
      (∀ k, (t.reg x).getLsbD k = (nn.getLsbD k && (Config.randomByte s.source s.draws).getLsbD k)) ∧
      t.pc.toNat = (s.pc.toNat + 2) % 4096 ∧ SameRegsBut [x] s t ∧ t.i = s.i ∧ SameMemory s t ∧ SamePixels s t ∧
      SameStack s t ∧ SameTimers s t ∧ t.keys = s.keys ∧ t.source = s.source ∧ t.font = s.font

/-- R22, R120: each of the six flag-writing instructions completes in every state and leaves exactly 0 or 1 in VF. -/
def Obligations.FlagsAreZeroOrOne : Prop :=
  ∀ (i : Instr) (s : State), flagWriters i = true →
    ∃ t, exec i s = .next t ∧ ((t.reg 0xF#4).toNat = 0 ∨ (t.reg 0xF#4).toNat = 1)

/-! ### Index register and memory (spec/43_index_memory.md, spec/20_memory.md) -/

/-- R140: `ANNN` puts NNN, zero-extended, into I. That PC is reduced modulo 4096 is the spec's decision D2 (log entry 8). -/
def Obligations.IndexLoad : Prop :=
  ∀ (nnn : Addr12) (s : State),
    decode (0xA#4 ++ nnn) = .ldI nnn ∧
    ∃ t, exec (.ldI nnn) s = .next t ∧ t.i.toNat = nnn.toNat ∧ t.pc.toNat = (s.pc.toNat + 2) % 4096 ∧
      SameRegsBut [] s t ∧ SameMemory s t ∧ SamePixels s t ∧ SameStack s t ∧ SameTimers s t ∧ SameInputs s t

/-- `FX1E` (R141) adds V[X] to I and writes no flag; that the sum keeps 16 bits is the spec's decision D4 (log entry 8).
That PC is reduced modulo 4096 is the spec's decision D2 (log entry 8). -/
def Obligations.IndexAddSetsNoFlag : Prop :=
  ∀ (x : RegId) (s : State),
    decode (0xF#4 ++ x ++ 0x1E#8) = .addIVx x ∧
    ∃ t, exec (.addIVx x) s = .next t ∧ t.i.toNat = (s.i.toNat + (s.reg x).toNat) % 65536 ∧
      t.pc.toNat = (s.pc.toNat + 2) % 4096 ∧
      SameRegsBut [] s t ∧ SameMemory s t ∧ SamePixels s t ∧ SameStack s t ∧ SameTimers s t ∧ SameInputs s t

/-- `FX29` (R142) puts `0x050 + 5 * V[X]` into I, for the whole byte V[X]; that no nibble is masked is the spec's decision
D14 (log entry 8). That PC is reduced modulo 4096 is the spec's decision D2 (log entry 8). -/
def Obligations.GlyphAddressOfByte : Prop :=
  ∀ (x : RegId) (s : State),
    decode (0xF#4 ++ x ++ 0x29#8) = .ldFVx x ∧
    ∃ t, exec (.ldFVx x) s = .next t ∧ t.i.toNat = 0x050 + 5 * (s.reg x).toNat ∧
      t.pc.toNat = (s.pc.toNat + 2) % 4096 ∧
      SameRegsBut [] s t ∧ SameMemory s t ∧ SamePixels s t ∧ SameStack s t ∧ SameTimers s t ∧ SameInputs s t

/-- `FX33` (R143) stores the hundreds, tens and ones digits of V[X] at I, I + 1, I + 2, each address modulo 4096, and
nothing else; the digits together are V[X]. Their order is general knowledge (G3, log entry 6), that addresses wrap and that
I stays are the spec's decisions D1 and D17 (log entry 8). That PC is reduced modulo 4096 is the spec's decision D2 (log
entry 8). -/
def Obligations.DecimalDigitsAreStored : Prop :=
  ∀ (x : RegId) (s : State),
    decode (0xF#4 ++ x ++ 0x33#8) = .ldBVx x ∧
    ∃ t, exec (.ldBVx x) s = .next t ∧
      (t.readByte (s.effAddr 0)).toNat = (s.reg x).toNat / 100 ∧
      (t.readByte (s.effAddr 1)).toNat ≤ 9 ∧ (t.readByte (s.effAddr 2)).toNat ≤ 9 ∧
      100 * (t.readByte (s.effAddr 0)).toNat + 10 * (t.readByte (s.effAddr 1)).toNat +
        (t.readByte (s.effAddr 2)).toNat = (s.reg x).toNat ∧
      SameMemoryOutside (s.effAddr 0) 3 s t ∧ t.pc.toNat = (s.pc.toNat + 2) % 4096 ∧
      SameRegsBut [] s t ∧ t.i = s.i ∧ SamePixels s t ∧ SameStack s t ∧ SameTimers s t ∧ SameInputs s t

/-- `FX55` (R144) stores V[0] to V[X] at I on, each address modulo 4096, and nothing else. That addresses wrap and that I
stays are the spec's decisions D1 and D17 (log entry 8). That PC is reduced modulo 4096 is the spec's decision D2 (log entry
8). -/
def Obligations.RegistersAreStored : Prop :=
  ∀ (x : RegId) (s : State),
    decode (0xF#4 ++ x ++ 0x55#8) = .storeRegs x ∧
    ∃ t, exec (.storeRegs x) s = .next t ∧
      (∀ r : RegId, r.toNat ≤ x.toNat → t.readByte (s.effAddr r.toNat) = s.reg r) ∧
      SameMemoryOutside (s.effAddr 0) (x.toNat + 1) s t ∧ t.pc.toNat = (s.pc.toNat + 2) % 4096 ∧
      SameRegsBut [] s t ∧ t.i = s.i ∧ SamePixels s t ∧ SameStack s t ∧ SameTimers s t ∧ SameInputs s t

/-- `FX65` (R145) loads V[0] to V[X] from I on, each address modulo 4096, and leaves the other registers. That addresses
wrap and that I stays are the spec's decisions D1 and D17 (log entry 8). That PC is reduced modulo 4096 is the spec's
decision D2 (log entry 8). -/
def Obligations.RegistersAreLoaded : Prop :=
  ∀ (x : RegId) (s : State),
    decode (0xF#4 ++ x ++ 0x65#8) = .loadRegs x ∧
    ∃ t, exec (.loadRegs x) s = .next t ∧
      (∀ r : RegId, t.reg r = if r.toNat ≤ x.toNat then s.readByte (s.effAddr r.toNat) else s.reg r) ∧
      t.pc.toNat = (s.pc.toNat + 2) % 4096 ∧
      t.i = s.i ∧ SameMemory s t ∧ SamePixels s t ∧ SameStack s t ∧ SameTimers s t ∧ SameInputs s t

/-- Storing V[0] to V[X] and loading them back, whatever the registers held in between, restores them (R144, R145; I stays by
decision D17, log entry 8). -/
def Obligations.LoadRestoresStoredRegisters : Prop :=
  ∀ (x : RegId) (s t : State) (v : Vector Byte 16), exec (.storeRegs x) s = .next t →
    ∃ u, exec (.loadRegs x) { t with v := v } = .next u ∧ ∀ r : RegId, r.toNat ≤ x.toNat → u.reg r = s.reg r

/-- A read returns the byte last written to its address, addresses being equal modulo 4096, and every other byte is as before
(R59). That addresses wrap is the spec's decision D1 (log entry 8). -/
def Obligations.ReadReturnsLastWrite : Prop :=
  ∀ (s : State) (a b : Nat) (v w : Byte),
    (s.writeByte a v).readByte b = (if a % 4096 = b % 4096 then v else s.readByte b) ∧
    ((s.writeByte a v).writeByte a w).readByte a = w

/-- A store is seen by the next fetch with nothing in between (R62, derived there): when `FX55` stores at least two bytes at
the address PC takes, the next word fetched is V0, V1. -/
def Obligations.StoreIsSeenByNextFetch : Prop :=
  ∀ (x : RegId) (s t : State), exec (.storeRegs x) s = .next t → 1 ≤ x.toNat → s.i.toNat % 4096 = t.pc.toNat →
    t.fetchWord = s.reg 0#4 ++ s.reg 1#4

/-! ### Display (spec/44_display.md) -/

/-- R151: `00E0` makes every pixel 0; VF, as everything else, is untouched. That PC is reduced modulo 4096 is the spec's
decision D2 (log entry 8). -/
def Obligations.ClearScreenKeepsVf : Prop :=
  ∀ s : State,
    decode 0x00E0#16 = .cls ∧
    ∃ t, exec .cls s = .next t ∧ (∀ px py, px ≤ 63 → py ≤ 31 → t.pixel px py = false) ∧
      t.pc.toNat = (s.pc.toNat + 2) % 4096 ∧
      SameRegsBut [] s t ∧ t.i = s.i ∧ SameMemory s t ∧ SameStack s t ∧ SameTimers s t ∧ SameInputs s t

/-- `DXYN` (R152): every pixel of the grid where the sprite has a bit of 1 is inverted, every other is as before; the rest
of the state but VF and PC is unchanged. That no coordinate is reduced, so that what lies outside is not drawn, is the
spec's decision D15, and that addresses wrap is D1 (log entry 8). That PC is reduced modulo 4096 is the spec's decision D2
(log entry 8). -/
def Obligations.DrawInvertsSpritePixels : Prop :=
  ∀ (x y : RegId) (n : Nibble) (s : State),
    decode (0xD#4 ++ x ++ y ++ n) = .drw x y n ∧
    ∃ t, exec (.drw x y n) s = .next t ∧
      (∀ px py, px ≤ 63 → py ≤ 31 →
        (spriteCovers s x y n px py → t.pixel px py = !s.pixel px py) ∧
        (¬ spriteCovers s x y n px py → t.pixel px py = s.pixel px py)) ∧
      t.pc.toNat = (s.pc.toNat + 2) % 4096 ∧
      SameRegsBut [0xF#4] s t ∧ t.i = s.i ∧ SameMemory s t ∧ SameStack s t ∧ SameTimers s t ∧ SameInputs s t

/-- The flag of `DXYN` (R152): VF is 1 if some sprite bit of 1 landed inside the grid on a pixel that was 1, and 0 otherwise,
with no row drawn too. Decisions D15 and D16 (log entry 8). -/
def Obligations.DrawFlagIsCollision : Prop :=
  ∀ (x y : RegId) (n : Nibble) (s : State),
    ∃ t, exec (.drw x y n) s = .next t ∧
      ((∃ px py, px ≤ 63 ∧ py ≤ 31 ∧ spriteCovers s x y n px py ∧ s.pixel px py = true) → t.reg 0xF#4 = 1#8) ∧
      ((¬ ∃ px py, px ≤ 63 ∧ py ≤ 31 ∧ spriteCovers s x y n px py ∧ s.pixel px py = true) → t.reg 0xF#4 = 0#8)

/-- Drawing the same sprite at the same place twice restores the framebuffer (R155, derived there from R152), and VF after
the second draw is 1 exactly when some selected pixel of the grid was 0 before the first. X and Y are not 15, as R155 asks.
That no coordinate is reduced, so that both draws select the same pixels of the grid, is the spec's decision D15, that the
sprite's addresses wrap is D1, and that I stays, so that the second draw reads the same sprite, is D17 (log entry 8). -/
def Obligations.DrawingTwiceRestores : Prop :=
  ∀ (x y : RegId) (n : Nibble) (s t : State), x ≠ 0xF#4 → y ≠ 0xF#4 → exec (.drw x y n) s = .next t →
    ∃ u, exec (.drw x y n) t = .next u ∧ SamePixels s u ∧
      (u.reg 0xF#4 = 1#8 ↔ ∃ px py, px ≤ 63 ∧ py ≤ 31 ∧ spriteCovers s x y n px py ∧ s.pixel px py = false)

/-! ### Keypad and timers (spec/45_keys_timers.md) -/

/-- `EX9E` and `EXA1` (R160, R161) skip when the key V[X] names is down and up. That the key is V[X] modulo 16 is the spec's
decision D13 (log entry 8). That PC is reduced modulo 4096 is the spec's decision D2 (log entry 8). -/
def Obligations.KeySkipsReadTheSnapshot : Prop :=
  ∀ (x : RegId) (s : State),
    (decode (0xE#4 ++ x ++ 0x9E#8) = .skp x ∧ ∃ t, exec (.skp x) s = .next t ∧
      t.pc.toNat = (s.pc.toNat + if s.keys.getLsbD ((s.reg x).toNat % 16) then 4 else 2) % 4096 ∧ OnlyRegs [] s t) ∧
    (decode (0xE#4 ++ x ++ 0xA1#8) = .sknp x ∧ ∃ t, exec (.sknp x) s = .next t ∧
      t.pc.toNat = (s.pc.toNat + if s.keys.getLsbD ((s.reg x).toNat % 16) then 2 else 4) % 4096 ∧ OnlyRegs [] s t)

/-- R162: `FX0A` with no key down changes nothing; with some key down V[X] takes the least index that is down and PC
advances. In both cases the step ends well and the timers tick, during the wait too. That PC is reduced modulo 4096 is the
spec's decision D2 (log entry 8). -/
def Obligations.KeyWaitPolls : Prop :=
  ∀ (x : RegId) (s : State),
    decode (0xF#4 ++ x ++ 0x0A#8) = .ldVxK x ∧
    (s.keys = 0#16 → exec (.ldVxK x) s = .next s) ∧
    (s.keys ≠ 0#16 → ∃ k t, k < 16 ∧ s.keys.getLsbD k = true ∧ (∀ j, j < k → s.keys.getLsbD j = false) ∧
      exec (.ldVxK x) s = .next t ∧ (t.reg x).toNat = k ∧ t.pc.toNat = (s.pc.toNat + 2) % 4096 ∧ OnlyRegs [x] s t) ∧
    (decode s.fetchWord = .ldVxK x → ∃ t, step s = .next t ∧ t.dt.toNat = s.dt.toNat - 1 ∧ t.st.toNat = s.st.toNat - 1 ∧
      (s.keys = 0#16 → t = { s with dt := t.dt, st := t.st }))

/-- R163: `FX07` copies DT into V[X]; the value is the one before this step's tick. That PC is reduced modulo 4096 is the
spec's decision D2 (log entry 8). -/
def Obligations.DelayTimerIsReadBeforeTheTick : Prop :=
  ∀ (x : RegId) (s : State),
    decode (0xF#4 ++ x ++ 0x07#8) = .ldVxDt x ∧
    (∃ t, exec (.ldVxDt x) s = .next t ∧ t.reg x = s.dt ∧ t.pc.toNat = (s.pc.toNat + 2) % 4096 ∧ OnlyRegs [x] s t) ∧
    (decode s.fetchWord = .ldVxDt x → ∃ t, step s = .next t ∧ t.reg x = s.dt ∧ t.dt.toNat = s.dt.toNat - 1)

/-- R164, R165: `FX15` and `FX18` copy V[X] into DT and ST; the same step's tick follows, so that after the step the timer
is one less, and the tone is on exactly when V[X] was 2 or more. That PC is reduced modulo 4096 is the spec's decision D2
(log entry 8). -/
def Obligations.TimersAreSetThenTicked : Prop :=
  ∀ (x : RegId) (s : State),
    decode (0xF#4 ++ x ++ 0x15#8) = .ldDtVx x ∧ decode (0xF#4 ++ x ++ 0x18#8) = .ldStVx x ∧
    (∃ t, exec (.ldDtVx x) s = .next t ∧ t.dt = s.reg x ∧ t.st = s.st ∧ t.pc.toNat = (s.pc.toNat + 2) % 4096 ∧
      SameRegsBut [] s t ∧ t.i = s.i ∧ SameMemory s t ∧ SamePixels s t ∧ SameStack s t ∧ SameInputs s t) ∧
    (∃ t, exec (.ldStVx x) s = .next t ∧ t.st = s.reg x ∧ t.dt = s.dt ∧ t.pc.toNat = (s.pc.toNat + 2) % 4096 ∧
      SameRegsBut [] s t ∧ t.i = s.i ∧ SameMemory s t ∧ SamePixels s t ∧ SameStack s t ∧ SameInputs s t) ∧
    (decode s.fetchWord = .ldDtVx x → ∃ t, step s = .next t ∧ t.dt.toNat = (s.reg x).toNat - 1) ∧
    (decode s.fetchWord = .ldStVx x → ∃ t, step s = .next t ∧ t.st.toNat = (s.reg x).toNat - 1 ∧
      (soundActive t = true ↔ 2 ≤ (s.reg x).toNat))

/-! ### Reset and the host (spec/10_state.md R42, spec/50_host_interface.md, spec/60_exceptions.md) -/

/-- R42, R171: after `reset()` every item of core state has the value of R42's table, the key flags and the random source are
as before, and a second reset changes nothing. Construction with any FONT and any source leaves the same. FONT is a parameter
(R7, R56): the statement is about every value of its 80 bytes. -/
def Obligations.ResetLeavesTheTable : Prop :=
  ∀ (s : State) (font : Font) (source : Nat),
    (∀ a, a < 0x050 ∨ 0x09F < a ∧ a < 4096 → (resetCore s).readByte a = 0#8) ∧
    (∀ (k : Nat) (_ : k < 80), (resetCore s).readByte (0x050 + k) = s.font[k]) ∧
    (∀ r, (resetCore s).reg r = 0#8) ∧ (resetCore s).i = 0#16 ∧ (resetCore s).pc = 0x200#16 ∧ (resetCore s).sp.val = 0 ∧
    (∀ (k : Nat) (_ : k < 16), (resetCore s).stack[k] = 0#16) ∧ (resetCore s).dt = 0#8 ∧ (resetCore s).st = 0#8 ∧
    (∀ px py, (resetCore s).pixel px py = false) ∧ SameInputs s (resetCore s) ∧
    resetCore (resetCore s) = resetCore s ∧
    resetCore (State.construct font source) = State.construct font source ∧
    (State.construct font source).font = font ∧ (State.construct font source).source = source

/-- `loadProgram` (R172): up to 3584 bytes go to 0x200 on and nothing else changes; more are refused. That a refused load
writes nothing is the spec's decision D28 (log entry 8). -/
def Obligations.LoadProgramWritesOnlyTheBytes : Prop :=
  ∀ (bytes : List Byte) (s : State),
    (bytes.length ≤ 3584 → ∃ t, loadProgram bytes s = .ok t ∧
      (∀ (k : Nat) (_ : k < bytes.length), t.readByte (0x200 + k) = bytes[k]) ∧
      (∀ a, a < 4096 → a < 0x200 ∨ 0x200 + bytes.length ≤ a → t.readByte a = s.readByte a) ∧
      t = { s with mem := t.mem }) ∧
    (3584 < bytes.length → loadProgram bytes s = .error .romTooLarge ∧ applyMove (.loadProgram bytes) s = s)

/-- `setKey` (R174) sets or clears one of the sixteen flags and nothing else. That another index has no effect is the spec's
decision D26 (log entry 8). -/
def Obligations.SetKeyChangesOneFlag : Prop :=
  ∀ (index : Nat) (pressed : Bool) (s : State),
    (index < 16 → (setKey index pressed s).keyDown index = pressed) ∧
    (∀ j, j ≠ index → (setKey index pressed s).keyDown j = s.keyDown j) ∧
    (16 ≤ index → setKey index pressed s = s) ∧
    setKey index pressed s = { s with keys := (setKey index pressed s).keys }

/-- R176, R177: `framebufferSnapshot()` is the grid of FB; `soundActive()` is ST not 0, and false after reset. -/
def Obligations.HostReadsAreTheState : Prop :=
  ∀ s : State,
    (∀ (px py : Nat) (_ : px < 64) (_ : py < 32), (framebufferSnapshot s)[py][px] = s.pixel px py) ∧
    (soundActive s = true ↔ s.st ≠ 0#8) ∧ soundActive (resetCore s) = false

/-- A fault changes nothing and repeats (R192, R196, R201): after a faulting step the host finds the state as it was, any
number of further steps leave it so and return the same fault, and after `reset()` a step completes. Decision D6
(log entry 8). -/
def Obligations.FaultRepeatsUntilReset : Prop :=
  ∀ (s : State) (f : Fault) (n : Nat), step s = .fault f →
    hostRun (List.replicate n .step) s = s ∧ hostStep (hostRun (List.replicate n .step) s) = (s, .fault f) ∧
    ∃ t, step (resetCore (hostRun (List.replicate n .step) s)) = .next t

/-! ### Invariants -/

/-- The state after reset meets the invariant, from whatever state the host resets, and so does an instance newly constructed:
PC at most 0x0FFF, every live stack entry at most 0x0FFF, memory in its canonical form (R42, R25, R35; the range is decision
D2, log entry 8; the canonical form is the model's, log entry 10). -/
def Obligations.ResetMeetsInvariant : Prop :=
  State.reset.Inv ∧ (∀ s : State, (resetCore s).Inv) ∧
    ∀ (font : Font) (source : Nat), (State.construct font source).Inv

/-- Every step keeps the invariant: PC at most 0x0FFF, every live stack entry at most 0x0FFF, memory in its canonical form
(R25, R35; the range is decision D2, log entry 8; the canonical form is the model's, log entry 10). -/
def Obligations.StepKeepsInvariant : Prop :=
  ∀ s t : State, s.Inv → step s = .next t → t.Inv

/-- Every run of host operations keeps the invariant: PC at most 0x0FFF, every live stack entry at most 0x0FFF, memory in its
canonical form (R8, R9, R25, R35; the range is decision D2, log entry 8; the canonical form is the model's, log entry 10). -/
def Obligations.EveryRunKeepsInvariant : Prop :=
  ∀ (ms : List HostMove) (s : State), s.Inv → (hostRun ms s).Inv

/-- PC and the live stack entries stay even as long as no jump or call goes to an odd target (R26, derived there). -/
def Obligations.PcStaysEvenWithoutOddTargets : Prop :=
  ∀ s t : State, s.EvenPc → step s = .next t →
    (∀ nnn, decode s.fetchWord = .jp nnn ∨ decode s.fetchWord = .call nnn → nnn.toNat % 2 = 0) →
    (∀ nnn, decode s.fetchWord = .jpV0 nnn → (nnn.toNat + (s.reg 0#4).toNat) % 2 = 0) →
    t.EvenPc

/-! ### Rules about every instruction -/

/-- The access table (R43, derived there): an instruction that completes writes no register but its destinations, no memory
but the bytes it stores, and no other part of the state but those the table gives it. -/
def Obligations.WritesOnlyWhatTheTableGives : Prop :=
  ∀ (i : Instr) (s t : State), exec i s = .next t →
    SameRegsBut (destRegs i) s t ∧
    SameMemoryOutside (storedBytes i s).1 (storedBytes i s).2 s t ∧
    ((i ≠ .cls ∧ ∀ x y n, i ≠ .drw x y n) → SamePixels s t) ∧
    ((i ≠ .ret ∧ ∀ nnn, i ≠ .call nnn) → SameStack s t) ∧
    ((∀ nnn, i ≠ .ldI nnn) → (∀ x, i ≠ .addIVx x ∧ i ≠ .ldFVx x) → t.i = s.i) ∧
    ((∀ x, i ≠ .ldDtVx x) → t.dt = s.dt) ∧ ((∀ x, i ≠ .ldStVx x) → t.st = s.st) ∧
    t.keys = s.keys ∧ t.source = s.source ∧ t.font = s.font ∧ ((∀ x nn, i ≠ .rnd x nn) → t.draws = s.draws)

/-- R24: the ways PC changes are exactly these. A faulting step answers no state. That PC is reduced modulo 4096 is the
spec's decision D2 (log entry 8). -/
def Obligations.PcChangesOnlyInTheListedWays : Prop :=
  ∀ (i : Instr) (s t : State), exec i s = .next t →
    match i with
    | .seImm _ _ | .sneImm _ _ | .seReg _ _ | .seRegAlias _ _ _ | .sneReg _ _ | .sneRegAlias _ _ _ | .skp _ | .sknp _ =>
      t.pc.toNat = (s.pc.toNat + 4) % 4096 ∨ t.pc.toNat = (s.pc.toNat + 2) % 4096
    | .jp nnn | .call nnn => t.pc.toNat = nnn.toNat
    | .jpV0 nnn => t.pc.toNat = (nnn.toNat + (s.reg 0#4).toNat) % 4096
    | .ret => ∃ _h : 0 < s.sp.val, t.pc.toNat = ((s.stack[s.sp.val - 1]'(by omega)).toNat + 2) % 4096
    | .ldVxK _ => if s.keys = 0#16 then t.pc = s.pc else t.pc.toNat = (s.pc.toNat + 2) % 4096
    | _ => t.pc.toNat = (s.pc.toNat + 2) % 4096

/-- R97: only `EX9E`, `EXA1` and `FX0A` read the key flags, and only `CXNN` reads the random source: with other keys, or with
another source or at another place of it, every other instruction gives the same result. -/
def Obligations.InputsAreReadOnlyWhereListed : Prop :=
  (∀ (i : Instr) (s : State) (k : BitVec 16), readsKeys i = false →
    exec i { s with keys := k } = withKeys k (exec i s)) ∧
  (∀ (i : Instr) (s : State) (source n : Nat), readsRandom i = false →
    exec i { s with source := source, draws := n } = withSource source n (exec i s))

/-- No instruction reads ST (R30): with another sound timer an instruction does the same, and ST itself is the other value
unless `FX18` set it. -/
def Obligations.SoundTimerIsNeverRead : Prop :=
  ∀ (i : Instr) (s : State) (b : Byte),
    exec i { s with st := b } =
      match exec i s, i with
      | .next t, .ldStVx _ => .next t
      | .next t, _ => .next { t with st := b }
      | r, _ => r

/-- Stack entries at SP and above are not observable (R35): two states that agree but for those step alike, to states that
agree but for those. How the stack is held is decision D27 (log entry 9). -/
def Obligations.DeadStackEntriesAreNotObservable : Prop :=
  ∀ (s s' : State), s' = { s with stack := s'.stack } → s'.liveEntries = s.liveEntries →
    match step s, step s' with
    | .next t, .next t' => t' = { t with stack := t'.stack } ∧ t'.liveEntries = t.liveEntries
    | .fault f, .fault f' => f = f'
    | _, _ => False

/-! ### Instances (spec/50_host_interface.md R178, R180) -/

/-- The host may inject any random source, at any place of it (R178): that changes nothing else, the next `CXNN` draws the
byte at that place of that source, and reset leaves the source as it is. So two instances draw from one source only if the
host injects one into both (R180). That the byte is free is the spec's decision D20; the naming of sources and places is the
model's (log entry 3). -/
def Obligations.InjectedSourceIsDrawnFrom : Prop :=
  ∀ (source place : Nat) (x : RegId) (nn : Byte) (s : State),
    injectSource source place s = { s with source := source, draws := place } ∧
    SameInputs (injectSource source place s) (resetCore (injectSource source place s)) ∧
    ∃ t, exec (.rnd x nn) (injectSource source place s) = .next t ∧ t.source = source ∧ t.draws = place + 1 ∧
      ∀ k, (t.reg x).getLsbD k = (nn.getLsbD k && (Config.randomByte source place).getLsbD k)
end

