-- ==== Sys2Proof/Laws/Decode.lean ====
section
/-! SUPPORT. The fields of a word put together from nibbles (spec/30_encoding.md R71), and the masks of R73 on it. -/

namespace Sys2Proof

/-! ### Fields of an ADDR word -/

@[simp] theorem fieldT_addr (t : BitVec 4) (a : BitVec 12) : fieldT (t ++ a) = t := by
  change BitVec.extractLsb' 12 4 (t ++ a : BitVec (4 + 12)) = t
  ext i hi
  rw [BitVec.getElem_extractLsb', BitVec.getLsbD_append, if_neg (by omega), show 12 + i - 12 = i by omega,
    BitVec.getLsbD_eq_getElem hi]
@[simp] theorem fieldNNN_addr (t : BitVec 4) (a : BitVec 12) : fieldNNN (t ++ a) = a := by
  change BitVec.extractLsb' 0 12 (t ++ a : BitVec (4 + 12)) = a
  ext i hi
  rw [BitVec.getElem_extractLsb', BitVec.getLsbD_append, if_pos (by omega), show 0 + i = i by omega,
    BitVec.getLsbD_eq_getElem hi]

/-! ### Fields of a REGIMM or REGOP word -/

@[simp] theorem fieldT_imm (t x : BitVec 4) (nn : BitVec 8) : fieldT (t ++ x ++ nn) = t := by
  change BitVec.extractLsb' 12 4 (t ++ x ++ nn : BitVec (4 + 4 + 8)) = t
  ext i hi
  rw [BitVec.getElem_extractLsb', BitVec.getLsbD_append, if_neg (by omega), BitVec.getLsbD_append, if_neg (by omega), show 12 + i - 8 - 4 = i by omega,
    BitVec.getLsbD_eq_getElem hi]
@[simp] theorem fieldX_imm (t x : BitVec 4) (nn : BitVec 8) : fieldX (t ++ x ++ nn) = x := by
  change BitVec.extractLsb' 8 4 (t ++ x ++ nn : BitVec (4 + 4 + 8)) = x
  ext i hi
  rw [BitVec.getElem_extractLsb', BitVec.getLsbD_append, if_neg (by omega), BitVec.getLsbD_append, if_pos (by omega), show 8 + i - 8 = i by omega,
    BitVec.getLsbD_eq_getElem hi]
@[simp] theorem fieldNN_imm (t x : BitVec 4) (nn : BitVec 8) : fieldNN (t ++ x ++ nn) = nn := by
  change BitVec.extractLsb' 0 8 (t ++ x ++ nn : BitVec (4 + 4 + 8)) = nn
  ext i hi
  rw [BitVec.getElem_extractLsb', BitVec.getLsbD_append, if_pos (by omega), show 0 + i = i by omega,
    BitVec.getLsbD_eq_getElem hi]

/-! ### Fields of a REGREG or REGREGN word -/

@[simp] theorem fieldT_reg (t x y n : BitVec 4) : fieldT (t ++ x ++ y ++ n) = t := by
  change BitVec.extractLsb' 12 4 (t ++ x ++ y ++ n : BitVec (4 + 4 + 4 + 4)) = t
  ext i hi
  rw [BitVec.getElem_extractLsb', BitVec.getLsbD_append, if_neg (by omega), BitVec.getLsbD_append, if_neg (by omega), BitVec.getLsbD_append, if_neg (by omega), show 12 + i - 4 - 4 - 4 = i by omega,
    BitVec.getLsbD_eq_getElem hi]
@[simp] theorem fieldX_reg (t x y n : BitVec 4) : fieldX (t ++ x ++ y ++ n) = x := by
  change BitVec.extractLsb' 8 4 (t ++ x ++ y ++ n : BitVec (4 + 4 + 4 + 4)) = x
  ext i hi
  rw [BitVec.getElem_extractLsb', BitVec.getLsbD_append, if_neg (by omega), BitVec.getLsbD_append, if_neg (by omega), BitVec.getLsbD_append, if_pos (by omega), show 8 + i - 4 - 4 = i by omega,
    BitVec.getLsbD_eq_getElem hi]
@[simp] theorem fieldY_reg (t x y n : BitVec 4) : fieldY (t ++ x ++ y ++ n) = y := by
  change BitVec.extractLsb' 4 4 (t ++ x ++ y ++ n : BitVec (4 + 4 + 4 + 4)) = y
  ext i hi
  rw [BitVec.getElem_extractLsb', BitVec.getLsbD_append, if_neg (by omega), BitVec.getLsbD_append, if_pos (by omega), show 4 + i - 4 = i by omega,
    BitVec.getLsbD_eq_getElem hi]
@[simp] theorem fieldN_reg (t x y n : BitVec 4) : fieldN (t ++ x ++ y ++ n) = n := by
  change BitVec.extractLsb' 0 4 (t ++ x ++ y ++ n : BitVec (4 + 4 + 4 + 4)) = n
  ext i hi
  rw [BitVec.getElem_extractLsb', BitVec.getLsbD_append, if_pos (by omega), show 0 + i = i by omega,
    BitVec.getLsbD_eq_getElem hi]

/-! ### Masks -/

theorem and_nibble_ones (t : BitVec 4) : t &&& 0xF#4 = t := BitVec.and_allOnes
theorem and_byte_ones (b : BitVec 8) : b &&& 0xFF#8 = b := BitVec.and_allOnes

theorem mask_addr (t : BitVec 4) (a : BitVec 12) : ((t ++ a : Word) &&& 0xF000#16) = (t ++ 0#12 : Word) := by
  change (t ++ a : BitVec (4 + 12)) &&& (0xF#4 ++ 0#12) = t ++ 0#12
  simp only [BitVec.and_append, BitVec.and_zero, and_nibble_ones]
theorem mask_imm (t x : BitVec 4) (nn : BitVec 8) : ((t ++ x ++ nn : Word) &&& 0xF000#16) = (t ++ 0#4 ++ 0#8 : Word) := by
  change (t ++ x ++ nn : BitVec (4 + 4 + 8)) &&& (0xF#4 ++ 0#4 ++ 0#8) = t ++ 0#4 ++ 0#8
  simp only [BitVec.and_append, BitVec.and_zero, and_nibble_ones]
theorem mask_op (t x : BitVec 4) (nn : BitVec 8) : ((t ++ x ++ nn : Word) &&& 0xF0FF#16) = (t ++ 0#4 ++ nn : Word) := by
  change (t ++ x ++ nn : BitVec (4 + 4 + 8)) &&& (0xF#4 ++ 0#4 ++ 0xFF#8) = t ++ 0#4 ++ nn
  simp only [BitVec.and_append, BitVec.and_zero, and_nibble_ones, and_byte_ones]
theorem mask_reg (t x y n : BitVec 4) : ((t ++ x ++ y ++ n : Word) &&& 0xF00F#16) = (t ++ 0#4 ++ 0#4 ++ n : Word) := by
  change (t ++ x ++ y ++ n : BitVec (4 + 4 + 4 + 4)) &&& (0xF#4 ++ 0#4 ++ 0#4 ++ 0xF#4) = t ++ 0#4 ++ 0#4 ++ n
  simp only [BitVec.and_append, BitVec.and_zero, and_nibble_ones]
theorem mask_reg_top (t x y n : BitVec 4) : ((t ++ x ++ y ++ n : Word) &&& 0xF000#16) = (t ++ 0#4 ++ 0#4 ++ 0#4 : Word) := by
  change (t ++ x ++ y ++ n : BitVec (4 + 4 + 4 + 4)) &&& (0xF#4 ++ 0#4 ++ 0#4 ++ 0#4) = t ++ 0#4 ++ 0#4 ++ 0#4
  simp only [BitVec.and_append, BitVec.and_zero, and_nibble_ones]

end Sys2Proof
end

