-- ==== Sys2Proof/Laws/State.lean ====
section
/-! SUPPORT. One lemma per field and per accessor for each update of the state, so that no later proof unfolds a record
update. -/

namespace Sys2Proof.Machine

variable (s : State)

/-! ### setReg -/

@[simp] theorem State.setReg_mem (x : RegId) (b : Byte) : (s.setReg x b).mem = s.mem := rfl
@[simp] theorem State.setReg_v (x : RegId) (b : Byte) : (s.setReg x b).v = s.v.set x.toNat b x.isLt := rfl
@[simp] theorem State.setReg_pc (x : RegId) (b : Byte) : (s.setReg x b).pc = s.pc := rfl
@[simp] theorem State.setReg_i (x : RegId) (b : Byte) : (s.setReg x b).i = s.i := rfl
@[simp] theorem State.setReg_stack (x : RegId) (b : Byte) : (s.setReg x b).stack = s.stack := rfl
@[simp] theorem State.setReg_sp (x : RegId) (b : Byte) : (s.setReg x b).sp = s.sp := rfl
@[simp] theorem State.setReg_dt (x : RegId) (b : Byte) : (s.setReg x b).dt = s.dt := rfl
@[simp] theorem State.setReg_st (x : RegId) (b : Byte) : (s.setReg x b).st = s.st := rfl
@[simp] theorem State.setReg_fb (x : RegId) (b : Byte) : (s.setReg x b).fb = s.fb := rfl
@[simp] theorem State.setReg_keys (x : RegId) (b : Byte) : (s.setReg x b).keys = s.keys := rfl
@[simp] theorem State.setReg_source (x : RegId) (b : Byte) : (s.setReg x b).source = s.source := rfl
@[simp] theorem State.setReg_draws (x : RegId) (b : Byte) : (s.setReg x b).draws = s.draws := rfl
@[simp] theorem State.setReg_font (x : RegId) (b : Byte) : (s.setReg x b).font = s.font := rfl
@[simp] theorem State.setReg_readByte (x : RegId) (b : Byte) (a' : Nat) : (s.setReg x b).readByte a' = s.readByte a' := rfl
@[simp] theorem State.setReg_pixel (x : RegId) (b : Byte) (x' y' : Nat) : (s.setReg x b).pixel x' y' = s.pixel x' y' := rfl
@[simp] theorem State.setReg_keyDown (x : RegId) (b : Byte) (k : Nat) : (s.setReg x b).keyDown k = s.keyDown k := rfl
@[simp] theorem State.setReg_rndByte (x : RegId) (b : Byte) : (s.setReg x b).rndByte = s.rndByte := rfl
@[simp] theorem State.setReg_effAddr (x : RegId) (b : Byte) (k : Nat) : (s.setReg x b).effAddr k = s.effAddr k := rfl

/-! ### setI -/

@[simp] theorem State.setI_mem (w : Word) : (s.setI w).mem = s.mem := rfl
@[simp] theorem State.setI_v (w : Word) : (s.setI w).v = s.v := rfl
@[simp] theorem State.setI_pc (w : Word) : (s.setI w).pc = s.pc := rfl
@[simp] theorem State.setI_i (w : Word) : (s.setI w).i = w := rfl
@[simp] theorem State.setI_stack (w : Word) : (s.setI w).stack = s.stack := rfl
@[simp] theorem State.setI_sp (w : Word) : (s.setI w).sp = s.sp := rfl
@[simp] theorem State.setI_dt (w : Word) : (s.setI w).dt = s.dt := rfl
@[simp] theorem State.setI_st (w : Word) : (s.setI w).st = s.st := rfl
@[simp] theorem State.setI_fb (w : Word) : (s.setI w).fb = s.fb := rfl
@[simp] theorem State.setI_keys (w : Word) : (s.setI w).keys = s.keys := rfl
@[simp] theorem State.setI_source (w : Word) : (s.setI w).source = s.source := rfl
@[simp] theorem State.setI_draws (w : Word) : (s.setI w).draws = s.draws := rfl
@[simp] theorem State.setI_font (w : Word) : (s.setI w).font = s.font := rfl
@[simp] theorem State.setI_reg (w : Word) (r : RegId) : (s.setI w).reg r = s.reg r := rfl
@[simp] theorem State.setI_readByte (w : Word) (a' : Nat) : (s.setI w).readByte a' = s.readByte a' := rfl
@[simp] theorem State.setI_pixel (w : Word) (x' y' : Nat) : (s.setI w).pixel x' y' = s.pixel x' y' := rfl
@[simp] theorem State.setI_keyDown (w : Word) (k : Nat) : (s.setI w).keyDown k = s.keyDown k := rfl
@[simp] theorem State.setI_rndByte (w : Word) : (s.setI w).rndByte = s.rndByte := rfl

/-! ### setDt -/

@[simp] theorem State.setDt_mem (b : Byte) : (s.setDt b).mem = s.mem := rfl
@[simp] theorem State.setDt_v (b : Byte) : (s.setDt b).v = s.v := rfl
@[simp] theorem State.setDt_pc (b : Byte) : (s.setDt b).pc = s.pc := rfl
@[simp] theorem State.setDt_i (b : Byte) : (s.setDt b).i = s.i := rfl
@[simp] theorem State.setDt_stack (b : Byte) : (s.setDt b).stack = s.stack := rfl
@[simp] theorem State.setDt_sp (b : Byte) : (s.setDt b).sp = s.sp := rfl
@[simp] theorem State.setDt_dt (b : Byte) : (s.setDt b).dt = b := rfl
@[simp] theorem State.setDt_st (b : Byte) : (s.setDt b).st = s.st := rfl
@[simp] theorem State.setDt_fb (b : Byte) : (s.setDt b).fb = s.fb := rfl
@[simp] theorem State.setDt_keys (b : Byte) : (s.setDt b).keys = s.keys := rfl
@[simp] theorem State.setDt_source (b : Byte) : (s.setDt b).source = s.source := rfl
@[simp] theorem State.setDt_draws (b : Byte) : (s.setDt b).draws = s.draws := rfl
@[simp] theorem State.setDt_font (b : Byte) : (s.setDt b).font = s.font := rfl
@[simp] theorem State.setDt_reg (b : Byte) (r : RegId) : (s.setDt b).reg r = s.reg r := rfl
@[simp] theorem State.setDt_readByte (b : Byte) (a' : Nat) : (s.setDt b).readByte a' = s.readByte a' := rfl
@[simp] theorem State.setDt_pixel (b : Byte) (x' y' : Nat) : (s.setDt b).pixel x' y' = s.pixel x' y' := rfl
@[simp] theorem State.setDt_keyDown (b : Byte) (k : Nat) : (s.setDt b).keyDown k = s.keyDown k := rfl
@[simp] theorem State.setDt_rndByte (b : Byte) : (s.setDt b).rndByte = s.rndByte := rfl
@[simp] theorem State.setDt_effAddr (b : Byte) (k : Nat) : (s.setDt b).effAddr k = s.effAddr k := rfl

/-! ### setSt -/

@[simp] theorem State.setSt_mem (b : Byte) : (s.setSt b).mem = s.mem := rfl
@[simp] theorem State.setSt_v (b : Byte) : (s.setSt b).v = s.v := rfl
@[simp] theorem State.setSt_pc (b : Byte) : (s.setSt b).pc = s.pc := rfl
@[simp] theorem State.setSt_i (b : Byte) : (s.setSt b).i = s.i := rfl
@[simp] theorem State.setSt_stack (b : Byte) : (s.setSt b).stack = s.stack := rfl
@[simp] theorem State.setSt_sp (b : Byte) : (s.setSt b).sp = s.sp := rfl
@[simp] theorem State.setSt_dt (b : Byte) : (s.setSt b).dt = s.dt := rfl
@[simp] theorem State.setSt_st (b : Byte) : (s.setSt b).st = b := rfl
@[simp] theorem State.setSt_fb (b : Byte) : (s.setSt b).fb = s.fb := rfl
@[simp] theorem State.setSt_keys (b : Byte) : (s.setSt b).keys = s.keys := rfl
@[simp] theorem State.setSt_source (b : Byte) : (s.setSt b).source = s.source := rfl
@[simp] theorem State.setSt_draws (b : Byte) : (s.setSt b).draws = s.draws := rfl
@[simp] theorem State.setSt_font (b : Byte) : (s.setSt b).font = s.font := rfl
@[simp] theorem State.setSt_reg (b : Byte) (r : RegId) : (s.setSt b).reg r = s.reg r := rfl
@[simp] theorem State.setSt_readByte (b : Byte) (a' : Nat) : (s.setSt b).readByte a' = s.readByte a' := rfl
@[simp] theorem State.setSt_pixel (b : Byte) (x' y' : Nat) : (s.setSt b).pixel x' y' = s.pixel x' y' := rfl
@[simp] theorem State.setSt_keyDown (b : Byte) (k : Nat) : (s.setSt b).keyDown k = s.keyDown k := rfl
@[simp] theorem State.setSt_rndByte (b : Byte) : (s.setSt b).rndByte = s.rndByte := rfl
@[simp] theorem State.setSt_effAddr (b : Byte) (k : Nat) : (s.setSt b).effAddr k = s.effAddr k := rfl

/-! ### setPc -/

@[simp] theorem State.setPc_mem (n : Nat) : (s.setPc n).mem = s.mem := rfl
@[simp] theorem State.setPc_v (n : Nat) : (s.setPc n).v = s.v := rfl
@[simp] theorem State.setPc_pc (n : Nat) : (s.setPc n).pc = BitVec.ofNat 16 (n % Config.memSize) := rfl
@[simp] theorem State.setPc_i (n : Nat) : (s.setPc n).i = s.i := rfl
@[simp] theorem State.setPc_stack (n : Nat) : (s.setPc n).stack = s.stack := rfl
@[simp] theorem State.setPc_sp (n : Nat) : (s.setPc n).sp = s.sp := rfl
@[simp] theorem State.setPc_dt (n : Nat) : (s.setPc n).dt = s.dt := rfl
@[simp] theorem State.setPc_st (n : Nat) : (s.setPc n).st = s.st := rfl
@[simp] theorem State.setPc_fb (n : Nat) : (s.setPc n).fb = s.fb := rfl
@[simp] theorem State.setPc_keys (n : Nat) : (s.setPc n).keys = s.keys := rfl
@[simp] theorem State.setPc_source (n : Nat) : (s.setPc n).source = s.source := rfl
@[simp] theorem State.setPc_draws (n : Nat) : (s.setPc n).draws = s.draws := rfl
@[simp] theorem State.setPc_font (n : Nat) : (s.setPc n).font = s.font := rfl
@[simp] theorem State.setPc_reg (n : Nat) (r : RegId) : (s.setPc n).reg r = s.reg r := rfl
@[simp] theorem State.setPc_readByte (n : Nat) (a' : Nat) : (s.setPc n).readByte a' = s.readByte a' := rfl
@[simp] theorem State.setPc_pixel (n : Nat) (x' y' : Nat) : (s.setPc n).pixel x' y' = s.pixel x' y' := rfl
@[simp] theorem State.setPc_keyDown (n : Nat) (k : Nat) : (s.setPc n).keyDown k = s.keyDown k := rfl
@[simp] theorem State.setPc_rndByte (n : Nat) : (s.setPc n).rndByte = s.rndByte := rfl
@[simp] theorem State.setPc_effAddr (n : Nat) (k : Nat) : (s.setPc n).effAddr k = s.effAddr k := rfl

/-! ### setFb -/

@[simp] theorem State.setFb_mem (f : Framebuffer) : (s.setFb f).mem = s.mem := rfl
@[simp] theorem State.setFb_v (f : Framebuffer) : (s.setFb f).v = s.v := rfl
@[simp] theorem State.setFb_pc (f : Framebuffer) : (s.setFb f).pc = s.pc := rfl
@[simp] theorem State.setFb_i (f : Framebuffer) : (s.setFb f).i = s.i := rfl
@[simp] theorem State.setFb_stack (f : Framebuffer) : (s.setFb f).stack = s.stack := rfl
@[simp] theorem State.setFb_sp (f : Framebuffer) : (s.setFb f).sp = s.sp := rfl
@[simp] theorem State.setFb_dt (f : Framebuffer) : (s.setFb f).dt = s.dt := rfl
@[simp] theorem State.setFb_st (f : Framebuffer) : (s.setFb f).st = s.st := rfl
@[simp] theorem State.setFb_fb (f : Framebuffer) : (s.setFb f).fb = f := rfl
@[simp] theorem State.setFb_keys (f : Framebuffer) : (s.setFb f).keys = s.keys := rfl
@[simp] theorem State.setFb_source (f : Framebuffer) : (s.setFb f).source = s.source := rfl
@[simp] theorem State.setFb_draws (f : Framebuffer) : (s.setFb f).draws = s.draws := rfl
@[simp] theorem State.setFb_font (f : Framebuffer) : (s.setFb f).font = s.font := rfl
@[simp] theorem State.setFb_reg (f : Framebuffer) (r : RegId) : (s.setFb f).reg r = s.reg r := rfl
@[simp] theorem State.setFb_readByte (f : Framebuffer) (a' : Nat) : (s.setFb f).readByte a' = s.readByte a' := rfl
@[simp] theorem State.setFb_keyDown (f : Framebuffer) (k : Nat) : (s.setFb f).keyDown k = s.keyDown k := rfl
@[simp] theorem State.setFb_rndByte (f : Framebuffer) : (s.setFb f).rndByte = s.rndByte := rfl
@[simp] theorem State.setFb_effAddr (f : Framebuffer) (k : Nat) : (s.setFb f).effAddr k = s.effAddr k := rfl

/-! ### writeByte -/

@[simp] theorem State.writeByte_mem (a : Nat) (b : Byte) : (s.writeByte a b).mem = s.mem.write s.font (a % Config.memSize) b := rfl
@[simp] theorem State.writeByte_v (a : Nat) (b : Byte) : (s.writeByte a b).v = s.v := rfl
@[simp] theorem State.writeByte_pc (a : Nat) (b : Byte) : (s.writeByte a b).pc = s.pc := rfl
@[simp] theorem State.writeByte_i (a : Nat) (b : Byte) : (s.writeByte a b).i = s.i := rfl
@[simp] theorem State.writeByte_stack (a : Nat) (b : Byte) : (s.writeByte a b).stack = s.stack := rfl
@[simp] theorem State.writeByte_sp (a : Nat) (b : Byte) : (s.writeByte a b).sp = s.sp := rfl
@[simp] theorem State.writeByte_dt (a : Nat) (b : Byte) : (s.writeByte a b).dt = s.dt := rfl
@[simp] theorem State.writeByte_st (a : Nat) (b : Byte) : (s.writeByte a b).st = s.st := rfl
@[simp] theorem State.writeByte_fb (a : Nat) (b : Byte) : (s.writeByte a b).fb = s.fb := rfl
@[simp] theorem State.writeByte_keys (a : Nat) (b : Byte) : (s.writeByte a b).keys = s.keys := rfl
@[simp] theorem State.writeByte_source (a : Nat) (b : Byte) : (s.writeByte a b).source = s.source := rfl
@[simp] theorem State.writeByte_draws (a : Nat) (b : Byte) : (s.writeByte a b).draws = s.draws := rfl
@[simp] theorem State.writeByte_font (a : Nat) (b : Byte) : (s.writeByte a b).font = s.font := rfl
@[simp] theorem State.writeByte_reg (a : Nat) (b : Byte) (r : RegId) : (s.writeByte a b).reg r = s.reg r := rfl
@[simp] theorem State.writeByte_pixel (a : Nat) (b : Byte) (x' y' : Nat) : (s.writeByte a b).pixel x' y' = s.pixel x' y' := rfl
@[simp] theorem State.writeByte_keyDown (a : Nat) (b : Byte) (k : Nat) : (s.writeByte a b).keyDown k = s.keyDown k := rfl
@[simp] theorem State.writeByte_rndByte (a : Nat) (b : Byte) : (s.writeByte a b).rndByte = s.rndByte := rfl
@[simp] theorem State.writeByte_effAddr (a : Nat) (b : Byte) (k : Nat) : (s.writeByte a b).effAddr k = s.effAddr k := rfl

/-! ### rndDrawn -/

@[simp] theorem State.rndDrawn_mem : s.rndDrawn.mem = s.mem := rfl
@[simp] theorem State.rndDrawn_v : s.rndDrawn.v = s.v := rfl
@[simp] theorem State.rndDrawn_pc : s.rndDrawn.pc = s.pc := rfl
@[simp] theorem State.rndDrawn_i : s.rndDrawn.i = s.i := rfl
@[simp] theorem State.rndDrawn_stack : s.rndDrawn.stack = s.stack := rfl
@[simp] theorem State.rndDrawn_sp : s.rndDrawn.sp = s.sp := rfl
@[simp] theorem State.rndDrawn_dt : s.rndDrawn.dt = s.dt := rfl
@[simp] theorem State.rndDrawn_st : s.rndDrawn.st = s.st := rfl
@[simp] theorem State.rndDrawn_fb : s.rndDrawn.fb = s.fb := rfl
@[simp] theorem State.rndDrawn_keys : s.rndDrawn.keys = s.keys := rfl
@[simp] theorem State.rndDrawn_source : s.rndDrawn.source = s.source := rfl
@[simp] theorem State.rndDrawn_draws : s.rndDrawn.draws = s.draws + 1 := rfl
@[simp] theorem State.rndDrawn_font : s.rndDrawn.font = s.font := rfl
@[simp] theorem State.rndDrawn_reg (r : RegId) : s.rndDrawn.reg r = s.reg r := rfl
@[simp] theorem State.rndDrawn_readByte (a' : Nat) : s.rndDrawn.readByte a' = s.readByte a' := rfl
@[simp] theorem State.rndDrawn_pixel (x' y' : Nat) : s.rndDrawn.pixel x' y' = s.pixel x' y' := rfl
@[simp] theorem State.rndDrawn_keyDown (k : Nat) : s.rndDrawn.keyDown k = s.keyDown k := rfl
@[simp] theorem State.rndDrawn_effAddr (k : Nat) : s.rndDrawn.effAddr k = s.effAddr k := rfl

/-! ### tick -/

@[simp] theorem State.tick_mem : s.tick.mem = s.mem := rfl
@[simp] theorem State.tick_v : s.tick.v = s.v := rfl
@[simp] theorem State.tick_pc : s.tick.pc = s.pc := rfl
@[simp] theorem State.tick_i : s.tick.i = s.i := rfl
@[simp] theorem State.tick_stack : s.tick.stack = s.stack := rfl
@[simp] theorem State.tick_sp : s.tick.sp = s.sp := rfl
@[simp] theorem State.tick_dt : s.tick.dt = tickTimer s.dt := rfl
@[simp] theorem State.tick_st : s.tick.st = tickTimer s.st := rfl
@[simp] theorem State.tick_fb : s.tick.fb = s.fb := rfl
@[simp] theorem State.tick_keys : s.tick.keys = s.keys := rfl
@[simp] theorem State.tick_source : s.tick.source = s.source := rfl
@[simp] theorem State.tick_draws : s.tick.draws = s.draws := rfl
@[simp] theorem State.tick_font : s.tick.font = s.font := rfl
@[simp] theorem State.tick_reg (r : RegId) : s.tick.reg r = s.reg r := rfl
@[simp] theorem State.tick_readByte (a' : Nat) : s.tick.readByte a' = s.readByte a' := rfl
@[simp] theorem State.tick_pixel (x' y' : Nat) : s.tick.pixel x' y' = s.pixel x' y' := rfl
@[simp] theorem State.tick_keyDown (k : Nat) : s.tick.keyDown k = s.keyDown k := rfl
@[simp] theorem State.tick_rndByte : s.tick.rndByte = s.rndByte := rfl
@[simp] theorem State.tick_effAddr (k : Nat) : s.tick.effAddr k = s.effAddr k := rfl

/-! ### advance -/

@[simp] theorem State.advance_mem : s.advance.mem = s.mem := rfl
@[simp] theorem State.advance_v : s.advance.v = s.v := rfl
@[simp] theorem State.advance_pc : s.advance.pc = BitVec.ofNat 16 ((s.pc.toNat + 2) % Config.memSize) := rfl
@[simp] theorem State.advance_i : s.advance.i = s.i := rfl
@[simp] theorem State.advance_stack : s.advance.stack = s.stack := rfl
@[simp] theorem State.advance_sp : s.advance.sp = s.sp := rfl
@[simp] theorem State.advance_dt : s.advance.dt = s.dt := rfl
@[simp] theorem State.advance_st : s.advance.st = s.st := rfl
@[simp] theorem State.advance_fb : s.advance.fb = s.fb := rfl
@[simp] theorem State.advance_keys : s.advance.keys = s.keys := rfl
@[simp] theorem State.advance_source : s.advance.source = s.source := rfl
@[simp] theorem State.advance_draws : s.advance.draws = s.draws := rfl
@[simp] theorem State.advance_font : s.advance.font = s.font := rfl
@[simp] theorem State.advance_reg (r : RegId) : s.advance.reg r = s.reg r := rfl
@[simp] theorem State.advance_readByte (a' : Nat) : s.advance.readByte a' = s.readByte a' := rfl
@[simp] theorem State.advance_pixel (x' y' : Nat) : s.advance.pixel x' y' = s.pixel x' y' := rfl
@[simp] theorem State.advance_keyDown (k : Nat) : s.advance.keyDown k = s.keyDown k := rfl
@[simp] theorem State.advance_rndByte : s.advance.rndByte = s.rndByte := rfl
@[simp] theorem State.advance_effAddr (k : Nat) : s.advance.effAddr k = s.effAddr k := rfl

/-! ### skipIf -/

@[simp] theorem State.skipIf_mem (c : Bool) : (s.skipIf c).mem = s.mem := rfl
@[simp] theorem State.skipIf_v (c : Bool) : (s.skipIf c).v = s.v := rfl
@[simp] theorem State.skipIf_pc (c : Bool) : (s.skipIf c).pc = BitVec.ofNat 16 ((s.pc.toNat + if c then 4 else 2) % Config.memSize) := rfl
@[simp] theorem State.skipIf_i (c : Bool) : (s.skipIf c).i = s.i := rfl
@[simp] theorem State.skipIf_stack (c : Bool) : (s.skipIf c).stack = s.stack := rfl
@[simp] theorem State.skipIf_sp (c : Bool) : (s.skipIf c).sp = s.sp := rfl
@[simp] theorem State.skipIf_dt (c : Bool) : (s.skipIf c).dt = s.dt := rfl
@[simp] theorem State.skipIf_st (c : Bool) : (s.skipIf c).st = s.st := rfl
@[simp] theorem State.skipIf_fb (c : Bool) : (s.skipIf c).fb = s.fb := rfl
@[simp] theorem State.skipIf_keys (c : Bool) : (s.skipIf c).keys = s.keys := rfl
@[simp] theorem State.skipIf_source (c : Bool) : (s.skipIf c).source = s.source := rfl
@[simp] theorem State.skipIf_draws (c : Bool) : (s.skipIf c).draws = s.draws := rfl
@[simp] theorem State.skipIf_font (c : Bool) : (s.skipIf c).font = s.font := rfl
@[simp] theorem State.skipIf_reg (c : Bool) (r : RegId) : (s.skipIf c).reg r = s.reg r := rfl
@[simp] theorem State.skipIf_readByte (c : Bool) (a' : Nat) : (s.skipIf c).readByte a' = s.readByte a' := rfl
@[simp] theorem State.skipIf_pixel (c : Bool) (x' y' : Nat) : (s.skipIf c).pixel x' y' = s.pixel x' y' := rfl
@[simp] theorem State.skipIf_keyDown (c : Bool) (k : Nat) : (s.skipIf c).keyDown k = s.keyDown k := rfl
@[simp] theorem State.skipIf_rndByte (c : Bool) : (s.skipIf c).rndByte = s.rndByte := rfl
@[simp] theorem State.skipIf_effAddr (c : Bool) (k : Nat) : (s.skipIf c).effAddr k = s.effAddr k := rfl

/-! ### Host operations -/

@[simp] theorem State.construct_mem (font : Font) (source : Nat) : (State.construct font source).mem = [] := rfl
@[simp] theorem State.construct_v (font : Font) (source : Nat) : (State.construct font source).v = Vector.replicate 16 0#8 := rfl
@[simp] theorem State.construct_pc (font : Font) (source : Nat) : (State.construct font source).pc = BitVec.ofNat 16 Config.progBase := rfl
@[simp] theorem State.construct_i (font : Font) (source : Nat) : (State.construct font source).i = 0#16 := rfl
@[simp] theorem State.construct_stack (font : Font) (source : Nat) : (State.construct font source).stack = Vector.replicate 16 0#16 := rfl
@[simp] theorem State.construct_sp (font : Font) (source : Nat) : (State.construct font source).sp = 0 := rfl
@[simp] theorem State.construct_dt (font : Font) (source : Nat) : (State.construct font source).dt = 0#8 := rfl
@[simp] theorem State.construct_st (font : Font) (source : Nat) : (State.construct font source).st = 0#8 := rfl
@[simp] theorem State.construct_fb (font : Font) (source : Nat) : (State.construct font source).fb = Vector.replicate 32 0#64 := rfl
@[simp] theorem State.construct_keys (font : Font) (source : Nat) : (State.construct font source).keys = 0#16 := rfl
@[simp] theorem State.construct_source (font : Font) (source : Nat) : (State.construct font source).source = source := rfl
@[simp] theorem State.construct_draws (font : Font) (source : Nat) : (State.construct font source).draws = 0 := rfl
@[simp] theorem State.construct_font (font : Font) (source : Nat) : (State.construct font source).font = font := rfl

@[simp] theorem resetCore_mem : (resetCore s).mem = [] := rfl
@[simp] theorem resetCore_v : (resetCore s).v = Vector.replicate 16 0#8 := rfl
@[simp] theorem resetCore_pc : (resetCore s).pc = BitVec.ofNat 16 Config.progBase := rfl
@[simp] theorem resetCore_i : (resetCore s).i = 0#16 := rfl
@[simp] theorem resetCore_stack : (resetCore s).stack = Vector.replicate 16 0#16 := rfl
@[simp] theorem resetCore_sp : (resetCore s).sp = 0 := rfl
@[simp] theorem resetCore_dt : (resetCore s).dt = 0#8 := rfl
@[simp] theorem resetCore_st : (resetCore s).st = 0#8 := rfl
@[simp] theorem resetCore_fb : (resetCore s).fb = Vector.replicate 32 0#64 := rfl
@[simp] theorem resetCore_keys : (resetCore s).keys = s.keys := rfl
@[simp] theorem resetCore_source : (resetCore s).source = s.source := rfl
@[simp] theorem resetCore_draws : (resetCore s).draws = s.draws := rfl
@[simp] theorem resetCore_font : (resetCore s).font = s.font := rfl

@[simp] theorem injectSource_mem (source place : Nat) : (injectSource source place s).mem = s.mem := rfl
@[simp] theorem injectSource_v (source place : Nat) : (injectSource source place s).v = s.v := rfl
@[simp] theorem injectSource_pc (source place : Nat) : (injectSource source place s).pc = s.pc := rfl
@[simp] theorem injectSource_i (source place : Nat) : (injectSource source place s).i = s.i := rfl
@[simp] theorem injectSource_stack (source place : Nat) : (injectSource source place s).stack = s.stack := rfl
@[simp] theorem injectSource_sp (source place : Nat) : (injectSource source place s).sp = s.sp := rfl
@[simp] theorem injectSource_dt (source place : Nat) : (injectSource source place s).dt = s.dt := rfl
@[simp] theorem injectSource_st (source place : Nat) : (injectSource source place s).st = s.st := rfl
@[simp] theorem injectSource_fb (source place : Nat) : (injectSource source place s).fb = s.fb := rfl
@[simp] theorem injectSource_keys (source place : Nat) : (injectSource source place s).keys = s.keys := rfl
@[simp] theorem injectSource_source (source place : Nat) : (injectSource source place s).source = source := rfl
@[simp] theorem injectSource_draws (source place : Nat) : (injectSource source place s).draws = place := rfl
@[simp] theorem injectSource_font (source place : Nat) : (injectSource source place s).font = s.font := rfl

end Sys2Proof.Machine
end

