-- ==== Sys2Proof/Laws/Display.lean ====
section
/-! SUPPORT. What the framebuffer operations do to one pixel and to the collision (spec/44_display.md R152, R153). -/

namespace Sys2Proof.Machine

theorem Framebuffer.pixel_clear (x y : Nat) : Framebuffer.clear.pixel x y = false := by
  simp [Framebuffer.pixel, Framebuffer.clear]

/-- The one spec lemma of `toggle`, inside the grid. -/
theorem Framebuffer.pixel_toggle (fb : Framebuffer) {x y : Nat} (hx : x ≤ 63) (hy : y ≤ 31) (px py : Nat) :
    (fb.toggle x y).pixel px py = (fb.pixel px py ^^ decide (px = x ∧ py = y)) := by
  have hy' : y < 32 := by omega
  by_cases hpy : py < 32
  · simp only [Framebuffer.pixel, Framebuffer.toggle, hy', hpy, dite_true, Vector.getElem_set]
    by_cases hyy : y = py
    · subst hyy
      simp only [if_true, BitVec.getLsbD_xor, and_true]
      congr 1
      by_cases hpx : px = x
      · subst hpx; simp; omega
      · simp [hpx]; omega
    · simp [hyy, Ne.symm hyy]
  · have : py ≠ y := by omega
    simp [Framebuffer.pixel, hpy, this]

/-- The one spec lemma of `plot`: it toggles its own pixel if that is in the grid. -/
theorem Canvas.plot_pixel (c : Canvas) (x y px py : Nat) :
    (c.plot x y).fb.pixel px py = (c.fb.pixel px py ^^ decide (x ≤ 63 ∧ y ≤ 31 ∧ px = x ∧ py = y)) := by
  by_cases h : x ≤ 63 ∧ y ≤ 31
  · simp [Canvas.plot, h, Framebuffer.pixel_toggle _ h.1 h.2]
  · have : ¬ (x ≤ 63 ∧ y ≤ 31 ∧ px = x ∧ py = y) := fun h' => h ⟨h'.1, h'.2.1⟩
    simp [Canvas.plot, h, this]

theorem Canvas.plot_coll (c : Canvas) (x y : Nat) :
    (c.plot x y).coll = (c.coll || (decide (x ≤ 63 ∧ y ≤ 31) && c.fb.pixel x y)) := by
  by_cases h : x ≤ 63 ∧ y ≤ 31 <;> simp [Canvas.plot, h]

/-! ### Rows and sprites -/

/-- A sprite whose rows are `bytes` and whose top-left pixel is (`x0`, `y0`) has a bit of 1 at (`px`, `py`). -/
def spriteBit (bytes : List Byte) (x0 y0 px py : Nat) : Bool :=
  decide (x0 ≤ px ∧ px < x0 + 8 ∧ y0 ≤ py) && (bytes.getD (py - y0) 0#8).getLsbD (7 - (px - x0))

/-- The first `n` columns of a row. -/
def Canvas.plotCols (c : Canvas) (x0 y : Nat) (byte : Byte) (n : Nat) : Canvas :=
  (List.range n).foldl (fun c k => if byte.getLsbD (7 - k) then c.plot (x0 + k) y else c) c

theorem Canvas.plotCols_succ (c : Canvas) (x0 y : Nat) (byte : Byte) (n : Nat) :
    c.plotCols x0 y byte (n + 1) =
      if byte.getLsbD (7 - n) then (c.plotCols x0 y byte n).plot (x0 + n) y else c.plotCols x0 y byte n := by
  simp only [Canvas.plotCols, List.range_succ, List.foldl_append, List.foldl_cons, List.foldl_nil]

theorem Canvas.plotCols_pixel (c : Canvas) (x0 y : Nat) (byte : Byte) (n px py : Nat) :
    (c.plotCols x0 y byte n).fb.pixel px py =
      (c.fb.pixel px py ^^ (decide (px ≤ 63 ∧ py ≤ 31 ∧ py = y ∧ x0 ≤ px ∧ px < x0 + n) &&
        byte.getLsbD (7 - (px - x0)))) := by
  induction n with
  | zero =>
    have : ¬ (px ≤ 63 ∧ py ≤ 31 ∧ py = y ∧ x0 ≤ px ∧ px < x0 + 0) := by omega
    simp only [decide_eq_false this, Bool.false_and, Bool.xor_false]; rfl
  | succ n ih =>
    rw [Canvas.plotCols_succ]
    by_cases hx : px = x0 + n
    · subst hx
      have h1 : ¬ (x0 + n ≤ 63 ∧ py ≤ 31 ∧ py = y ∧ x0 ≤ x0 + n ∧ x0 + n < x0 + n) := by omega
      have h2 : x0 + n - x0 = n := by omega
      by_cases hb : byte.getLsbD (7 - n)
      · rw [if_pos hb, Canvas.plot_pixel, ih, decide_eq_false h1, h2, hb, Bool.false_and, Bool.xor_false, Bool.and_true]
        congr 1
        rw [decide_eq_decide]; omega
      · simp only [hb, Bool.false_eq_true, if_false, ih, decide_eq_false h1, h2, Bool.and_false]
    · have h1 : (px ≤ 63 ∧ py ≤ 31 ∧ py = y ∧ x0 ≤ px ∧ px < x0 + (n + 1)) ↔
          (px ≤ 63 ∧ py ≤ 31 ∧ py = y ∧ x0 ≤ px ∧ px < x0 + n) := by omega
      simp only [h1]
      by_cases hb : byte.getLsbD (7 - n)
      · simp [hb, Canvas.plot_pixel, ih, hx]
      · simp [hb, ih]

theorem Canvas.plotCols_coll (c : Canvas) (x0 y : Nat) (byte : Byte) (n : Nat) :
    (c.plotCols x0 y byte n).coll = true ↔
      c.coll = true ∨ ∃ k, k < n ∧ x0 + k ≤ 63 ∧ y ≤ 31 ∧ byte.getLsbD (7 - k) = true ∧ c.fb.pixel (x0 + k) y = true := by
  induction n with
  | zero => simp [Canvas.plotCols]
  | succ n ih =>
    rw [Canvas.plotCols_succ]
    by_cases hb : byte.getLsbD (7 - n)
    · simp only [hb, if_true, Canvas.plot_coll, Canvas.plotCols_pixel, Bool.or_eq_true, ih, Bool.and_eq_true,
        decide_eq_true_eq]
      constructor
      · rintro ((h | ⟨k, hk, h⟩) | ⟨h, h'⟩)
        · exact .inl h
        · exact .inr ⟨k, by omega, h⟩
        · exact .inr ⟨n, by omega, h.1, h.2, hb, by simpa using h'⟩
      · rintro (h | ⟨k, hk, h⟩)
        · exact .inl (.inl h)
        · by_cases hkn : k = n
          · subst hkn; exact .inr ⟨⟨h.1, h.2.1⟩, by simpa using h.2.2.2⟩
          · exact .inl (.inr ⟨k, by omega, h⟩)
    · simp only [hb, Bool.false_eq_true, if_false, ih]
      constructor
      · rintro (h | ⟨k, hk, h⟩)
        · exact .inl h
        · exact .inr ⟨k, by omega, h⟩
      · rintro (h | ⟨k, hk, h⟩)
        · exact .inl h
        · exact .inr ⟨k, by rcases Nat.lt_succ_iff_lt_or_eq.mp hk with h' | h'; exact h'; subst h'; exact absurd h.2.2.1 hb, h⟩

/-- The one spec lemma of `plotRows` for pixels: a pixel in the grid is toggled exactly where the sprite has a 1. -/
theorem Canvas.plotRows_pixel (c : Canvas) (x0 y0 : Nat) (bytes : List Byte) (px py : Nat) :
    (c.plotRows x0 y0 bytes).fb.pixel px py =
      (c.fb.pixel px py ^^ (decide (px ≤ 63 ∧ py ≤ 31) && spriteBit bytes x0 y0 px py)) := by
  induction bytes generalizing c y0 with
  | nil => simp [Canvas.plotRows, spriteBit]
  | cons b bs ih =>
    rw [Canvas.plotRows, ih, show c.plotRow x0 y0 b = c.plotCols x0 y0 b 8 from rfl, Canvas.plotCols_pixel, spriteBit,
      spriteBit]
    rcases Nat.lt_trichotomy py y0 with h | h | h
    · have h1 : ¬ y0 ≤ py := by omega
      have h2 : ¬ y0 + 1 ≤ py := by omega
      simp [h1, h2, show py ≠ y0 by omega]
    · subst h
      simp [show ¬ py + 1 ≤ py by omega, Bool.decide_and, Bool.and_assoc, Bool.and_comm, Bool.and_left_comm]
    · obtain ⟨k, rfl⟩ : ∃ k, py = y0 + 1 + k := ⟨py - (y0 + 1), by omega⟩
      have h1 : y0 + 1 + k - y0 = k + 1 := by omega
      have h2 : y0 + 1 + k - (y0 + 1) = k := by omega
      simp [h1, h2, show y0 ≤ y0 + 1 + k by omega, show y0 + 1 + k ≠ y0 by omega]

/-- The one spec lemma of `plotRows` for the collision: some sprite pixel in the grid was set before the draw. -/
theorem Canvas.plotRows_coll (c : Canvas) (x0 y0 : Nat) (bytes : List Byte) :
    (c.plotRows x0 y0 bytes).coll = true ↔
      c.coll = true ∨ ∃ px py, px ≤ 63 ∧ py ≤ 31 ∧ spriteBit bytes x0 y0 px py = true ∧ c.fb.pixel px py = true := by
  induction bytes generalizing c y0 with
  | nil => simp [Canvas.plotRows, spriteBit]
  | cons b bs ih =>
    rw [Canvas.plotRows, ih, show c.plotRow x0 y0 b = c.plotCols x0 y0 b 8 from rfl, Canvas.plotCols_coll]
    simp only [Canvas.plotCols_pixel]
    constructor
    · rintro ((h | ⟨k, hk, h1, h2, h3, h4⟩) | ⟨px, py, h1, h2, h3, h4⟩)
      · exact .inl h
      · refine .inr ⟨x0 + k, y0, h1, h2, ?_, h4⟩
        simp [spriteBit, h3, hk]
      · simp only [spriteBit, Bool.and_eq_true, decide_eq_true_eq] at h3
        obtain ⟨k, rfl⟩ : ∃ k, py = y0 + 1 + k := ⟨py - (y0 + 1), by omega⟩
        refine .inr ⟨px, y0 + 1 + k, h1, h2, ?_, ?_⟩
        · have e1 : y0 + 1 + k - y0 = k + 1 := by omega
          have e2 : y0 + 1 + k - (y0 + 1) = k := by omega
          simp only [spriteBit, e1, e2] at h3 ⊢
          simp only [List.getD_cons_succ, Bool.and_eq_true, decide_eq_true_eq]
          exact ⟨⟨h3.1.1, h3.1.2.1, by omega⟩, h3.2⟩
        · simpa [show y0 + 1 + k ≠ y0 by omega] using h4
    · rintro (h | ⟨px, py, h1, h2, h3, h4⟩)
      · exact .inl (.inl h)
      · simp only [spriteBit, Bool.and_eq_true, decide_eq_true_eq] at h3
        by_cases hy : py = y0
        · subst hy
          obtain ⟨k, rfl⟩ : ∃ k, px = x0 + k := ⟨px - x0, by omega⟩
          refine .inl (.inr ⟨k, by omega, h1, h2, ?_, h4⟩)
          simpa using h3.2
        · obtain ⟨k, rfl⟩ : ∃ k, py = y0 + 1 + k := ⟨py - (y0 + 1), by omega⟩
          have e1 : y0 + 1 + k - y0 = k + 1 := by omega
          have e2 : y0 + 1 + k - (y0 + 1) = k := by omega
          refine .inr ⟨px, y0 + 1 + k, h1, h2, ?_, ?_⟩
          · rw [e1, List.getD_cons_succ] at h3
            simp only [spriteBit, e2, Bool.and_eq_true, decide_eq_true_eq]
            exact ⟨⟨h3.1.1, h3.1.2.1, by omega⟩, h3.2⟩
          · simpa [show y0 + 1 + k ≠ y0 by omega] using h4

end Sys2Proof.Machine
end

