-- ==== Sys2Proof/Laws/Memory.lean ====
section
/-! SUPPORT. What the memory operations do: a read after a write (spec/20_memory.md R59), and that every one keeps the
canonical form. -/

namespace Sys2Proof.Machine

/-! ### The list -/

theorem Memory.read_erase_other (font : Font) (m : Memory) {a b : Nat} (h : a ≠ b) : (m.erase a).read font b = m.read font b := by
  induction m with
  | nil => rfl
  | cons c m ih =>
    obtain ⟨c, w⟩ := c
    by_cases hac : a = c
    · subst hac; simp [Memory.erase, Memory.read, ih, Ne.symm h]
    · simp [Memory.erase, hac, Memory.read, ih]

theorem Memory.read_erase_same (font : Font) (m : Memory) (a : Nat) : (m.erase a).read font a = unlistedByte font a := by
  induction m with
  | nil => rfl
  | cons c m ih =>
    obtain ⟨c, w⟩ := c
    by_cases hac : a = c
    · simp [Memory.erase, hac]; simpa [hac] using ih
    · simp [Memory.erase, hac, Memory.read, ih]

theorem Memory.read_insert_other (font : Font) (m : Memory) {a b : Nat} (v : Byte) (h : a ≠ b) : (m.insert a v).read font b = m.read font b := by
  induction m with
  | nil => simp [Memory.insert, Memory.read, Ne.symm h]
  | cons c m ih =>
    obtain ⟨c, w⟩ := c
    by_cases hac : a < c
    · simp [Memory.insert, hac, Memory.read, Ne.symm h]
    · simp [Memory.insert, hac, Memory.read, ih]

/-- After an erase the inserted byte is the first entry of its address. -/
theorem Memory.read_insert_erase (font : Font) (m : Memory) (a : Nat) (v : Byte) : ((m.erase a).insert a v).read font a = v := by
  induction m with
  | nil => simp [Memory.erase, Memory.insert, Memory.read]
  | cons c m ih =>
    obtain ⟨c, w⟩ := c
    by_cases hac : a = c
    · simpa [Memory.erase, hac] using hac ▸ ih
    · by_cases hlt : a < c
      · simp [Memory.erase, hac, Memory.insert, hlt, Memory.read]
      · simp [Memory.erase, hac, Memory.insert, hlt, Memory.read, ih]

/-- The one spec lemma of `Memory.write`. It needs no canonical form. -/
theorem Memory.read_write (font : Font) (m : Memory) (a b : Nat) (v : Byte) :
    (m.write font a v).read font b = if a = b then v else m.read font b := by
  by_cases hab : a = b
  · subst hab
    by_cases hv : v = unlistedByte font a
    · simp [Memory.write, hv, Memory.read_erase_same]
    · simp [Memory.write, hv, Memory.read_insert_erase]
  · by_cases hv : v = unlistedByte font a
    · simp [Memory.write, hv, hab, Memory.read_erase_other]
    · simp [Memory.write, hv, hab, Memory.read_insert_other, Memory.read_erase_other]

/-! ### The canonical form -/

theorem Memory.wfFrom_cons (font : Font) (lo a : Nat) (v : Byte) (m : Memory) :
    Memory.wfFrom font lo ((a, v) :: m) = true ↔
      lo ≤ a ∧ a < 4096 ∧ v ≠ unlistedByte font a ∧ Memory.wfFrom font (a + 1) m = true := by
  rw [Memory.wfFrom]; simp only [Bool.and_eq_true, decide_eq_true_eq, bne_iff_ne, and_assoc, Config.memSize]

theorem Memory.wfFrom_mono (font : Font) {lo lo' : Nat} (h : lo ≤ lo') (m : Memory) (hm : Memory.wfFrom font lo' m = true) :
    Memory.wfFrom font lo m = true := by
  cases m with
  | nil => rfl
  | cons c m => rw [Memory.wfFrom_cons] at hm ⊢; exact ⟨by omega, hm.2⟩

theorem Memory.wfFrom_erase (font : Font) (m : Memory) (a : Nat) (lo : Nat) (hm : Memory.wfFrom font lo m = true) :
    Memory.wfFrom font lo (m.erase a) = true := by
  induction m generalizing lo with
  | nil => rfl
  | cons c m ih =>
    obtain ⟨c, w⟩ := c
    rw [Memory.wfFrom_cons] at hm
    obtain ⟨h1, h2, h3, h4⟩ := hm
    by_cases hac : a = c
    · simpa [Memory.erase, hac] using Memory.wfFrom_mono font (by omega) _ (hac ▸ ih _ h4)
    · simpa [Memory.erase, hac, Memory.wfFrom_cons] using ⟨h1, h2, h3, ih _ h4⟩

theorem Memory.wfFrom_insert_erase (font : Font) (m : Memory) (a : Nat) (v : Byte) (lo : Nat) (hm : Memory.wfFrom font lo m = true)
    (hlo : lo ≤ a) (ha : a < 4096) (hv : v ≠ unlistedByte font a) : Memory.wfFrom font lo ((m.erase a).insert a v) = true := by
  induction m generalizing lo with
  | nil => simpa [Memory.erase, Memory.insert, Memory.wfFrom_cons] using ⟨hlo, ha, hv, rfl⟩
  | cons c m ih =>
    obtain ⟨c, w⟩ := c
    rw [Memory.wfFrom_cons] at hm
    obtain ⟨h1, h2, h3, h4⟩ := hm
    by_cases hac : a = c
    · subst hac
      simpa [Memory.erase] using ih lo (Memory.wfFrom_mono font (by omega) _ h4) hlo
    · by_cases hlt : a < c
      · simp only [Memory.erase, hac, if_false, Memory.insert, hlt, if_true, Memory.wfFrom_cons]
        exact ⟨hlo, ha, hv, by omega, h2, h3, Memory.wfFrom_erase font m a _ h4⟩
      · simp only [Memory.erase, hac, if_false, Memory.insert, hlt, Memory.wfFrom_cons]
        exact ⟨h1, h2, h3, ih _ h4 (by omega)⟩

theorem Memory.wf_write (font : Font) (m : Memory) (a : Nat) (v : Byte) (ha : a < 4096) (hm : m.wf font = true) :
    (m.write font a v).wf font = true := by
  by_cases hv : v = unlistedByte font a
  · simpa [Memory.write, hv, Memory.wf] using Memory.wfFrom_erase font m a 0 hm
  · simpa [Memory.write, hv, Memory.wf] using Memory.wfFrom_insert_erase font m a v 0 hm (Nat.zero_le a) ha hv

theorem Memory.wf_construct (font : Font) (source : Nat) :
    (State.construct font source).mem.wf (State.construct font source).font = true := rfl

/-! ### The state's accessors -/

/-- The one spec lemma of `writeByte` (R51, R59): each address stands for its value modulo 4096. -/
theorem State.writeByte_readByte (s : State) (a b : Nat) (v : Byte) :
    (s.writeByte a v).readByte b = if a % 4096 = b % 4096 then v else s.readByte b := by
  simp [State.readByte, Memory.read_write]

theorem State.wf_writeByte (s : State) (a : Nat) (v : Byte) (h : s.mem.wf s.font = true) :
    (s.writeByte a v).mem.wf s.font = true := by
  simpa using Memory.wf_write s.font s.mem (a % 4096) v (Nat.mod_lt _ (by decide)) h

/-- Writing bytes changes memory only. -/
theorem State.writeBytes_frame (s : State) (a : Nat) (bs : List Byte) :
    s.writeBytes a bs = { s with mem := (s.writeBytes a bs).mem } := by
  induction bs generalizing s a with
  | nil => rfl
  | cons b bs ih => rw [State.writeBytes, ih]; rfl

theorem State.wf_writeBytes (s : State) (a : Nat) (bs : List Byte) (h : s.mem.wf s.font = true) :
    (s.writeBytes a bs).mem.wf s.font = true := by
  induction bs generalizing s a with
  | nil => exact h
  | cons b bs ih => exact ih (s.writeByte a b) _ (State.wf_writeByte s a b h)

/-- An address that is none of those written reads as before. -/
theorem State.writeBytes_readByte_other (s : State) (a c : Nat) (bs : List Byte)
    (h : ∀ k, k < bs.length → c % 4096 ≠ (a + k) % 4096) : (s.writeBytes a bs).readByte c = s.readByte c := by
  induction bs generalizing s a with
  | nil => rfl
  | cons b bs ih =>
    rw [State.writeBytes, ih _ _ (fun k hk => by have := h (k + 1) (by simpa using hk); rwa [show a + (k + 1) = a + 1 + k by omega] at this),
      State.writeByte_readByte, if_neg (fun e => h 0 (by simp) (by simpa using e.symm))]

/-- An address written reads as the byte written there; at most 4096 bytes never meet themselves. -/
theorem State.writeBytes_readByte_written (s : State) (a k : Nat) (bs : List Byte) (hk : k < bs.length)
    (hl : bs.length ≤ 4096) : (s.writeBytes a bs).readByte (a + k) = bs[k] := by
  induction bs generalizing s a k with
  | nil => simp at hk
  | cons b bs ih =>
    simp only [List.length_cons] at hk hl
    cases k with
    | zero =>
      rw [State.writeBytes, State.writeBytes_readByte_other _ _ _ _ (fun k hk => by omega), State.writeByte_readByte]
      simp
    | succ k =>
      rw [State.writeBytes, show a + (k + 1) = a + 1 + k by omega, ih _ _ _ (by omega) (by omega)]
      simp

/-- What a later fetch reads where a word was placed (R62, R53). -/
theorem State.fetchWord_placeWord (s : State) (w : Word) : (s.placeWord w).fetchWord = w := by
  have h : (s.pc.toNat + 1) % 4096 ≠ s.pc.toNat % 4096 := by omega
  simp only [State.fetchWord, State.placeWord, State.writeByte_pc, State.writeByte_readByte, h, if_false, if_true,
    wordOfBytes, highByte, lowByte]
  ext i hi
  simp only [BitVec.getElem_append, BitVec.getElem_extractLsb']
  split <;> simp_all [BitVec.getLsbD_eq_getElem]

end Sys2Proof.Machine
end

