-- ==== Sys2Proof/Laws/Ops.lean ====
section
/-! SUPPORT. One spec lemma per shared operation over registers, PC, stack, timers, inputs and flags. -/

namespace Sys2Proof.Machine

/-! ### Registers -/

/-- The one spec lemma of `setReg`. -/
theorem State.setReg_reg (s : State) (x y : RegId) (b : Byte) :
    (s.setReg x b).reg y = if x = y then b else s.reg y := by
  simp only [State.reg, State.setReg, Vector.getElem_set, ← BitVec.toNat_inj]

@[simp] theorem State.setReg_reg_same (s : State) (x : RegId) (b : Byte) : (s.setReg x b).reg x = b := by
  simp [State.setReg_reg]

theorem State.setReg_reg_other (s : State) {x y : RegId} (b : Byte) (h : x ≠ y) : (s.setReg x b).reg y = s.reg y := by
  simp [State.setReg_reg, h]

/-- Result first, flag last: VF ends as the flag (R23). -/
theorem State.setRegFlag_reg (s : State) (x y : RegId) (r f : Byte) :
    (s.setRegFlag x r f).reg y = if y = vf then f else if x = y then r else s.reg y := by
  simp only [State.setRegFlag, State.setReg_reg, eq_comm (a := vf)]

/-- The one spec lemma of `loadRegsFrom`: the first `n` registers take their bytes, nothing else changes. -/
theorem State.loadRegsFrom_reg (s : State) (a n : Nat) (hn : n ≤ 16) (r : RegId) :
    (s.loadRegsFrom a n).reg r = if r.toNat < n then s.readByte (a + r.toNat) else s.reg r := by
  induction n with
  | zero => rfl
  | succ n ih =>
    have hr : BitVec.ofNat 4 n = r ↔ r.toNat = n := by
      rw [← BitVec.toNat_inj, BitVec.toNat_ofNat, Nat.mod_eq_of_lt (by omega)]; exact eq_comm
    rw [State.loadRegsFrom, State.setReg_reg, ih (by omega)]
    by_cases h : r.toNat = n
    · simp [hr.mpr h, h]
    · rw [if_neg (mt hr.mp h)]
      by_cases h' : r.toNat < n
      · simp [h', show r.toNat < n + 1 by omega]
      · simp [h', show ¬ r.toNat < n + 1 by omega]

theorem State.loadRegsFrom_frame (s : State) (a n : Nat) :
    s.loadRegsFrom a n = { s with v := (s.loadRegsFrom a n).v } := by
  induction n with
  | zero => rfl
  | succ n ih => rw [State.loadRegsFrom, ih]; rfl

/-! ### The program counter -/

theorem State.setPc_toNat (s : State) (n : Nat) : (s.setPc n).pc.toNat = n % 4096 := by
  simp only [State.setPc_pc, BitVec.toNat_ofNat, Config.memSize]; omega

theorem State.advance_toNat (s : State) : s.advance.pc.toNat = (s.pc.toNat + 2) % 4096 := State.setPc_toNat s _

theorem State.skipIf_toNat (s : State) (c : Bool) :
    (s.skipIf c).pc.toNat = (s.pc.toNat + if c then 4 else 2) % 4096 := State.setPc_toNat s _

/-! ### The call stack -/

/-- Everything `push` can do (R33). -/
theorem State.push_cases (s : State) (w : Word) :
    (s.sp.val = 16 ∧ s.push w = none) ∨
    ∃ (h : s.sp.val < 16), s.push w = some { s with stack := s.stack.set s.sp.val w, sp := ⟨s.sp.val + 1, by omega⟩ } := by
  by_cases h : s.sp.val < 16
  · exact .inr ⟨h, by simp [State.push, h]⟩
  · exact .inl ⟨by omega, by simp [State.push, h]⟩

/-- Everything `pop` can do (R34). -/
theorem State.pop_cases (s : State) :
    (s.sp.val = 0 ∧ s.pop = none) ∨
    ∃ (_h : 0 < s.sp.val), s.pop =
      some (s.stack[s.sp.val - 1]'(by omega), { s with sp := ⟨s.sp.val - 1, by omega⟩ }) := by
  by_cases h : 0 < s.sp.val
  · exact .inr ⟨h, by simp [State.pop, h]⟩
  · exact .inl ⟨by omega, by simp [State.pop, h]⟩

/-! ### The end of a step -/

/-- Everything `finishStep` can do: an `Ok` result is ticked, every other one is passed on (R93, R196). -/
theorem finishStep_next_iff (r : Result) (t : State) : finishStep r = .next t ↔ ∃ u, r = .next u ∧ t = u.tick := by
  cases r <;> simp [finishStep, eq_comm]

theorem finishStep_fault_iff (r : Result) (f : Fault) : finishStep r = .fault f ↔ r = .fault f := by
  cases r <;> simp [finishStep]

theorem tickTimer_toNat (t : Byte) : (tickTimer t).toNat = t.toNat - 1 := by
  unfold tickTimer
  split
  · simp_all
  · rename_i h
    have : t.toNat ≠ 0 := fun h' => h (BitVec.eq_of_toNat_eq (by simpa using h'))
    have := t.isLt
    rw [BitVec.toNat_sub]; simp; omega

/-! ### Keys -/

/-- No key is found exactly when the snapshot is 0. -/
theorem State.lowestKey_none_iff (s : State) : s.lowestKey = none ↔ s.keys = 0#16 := by
  simp only [State.lowestKey, List.find?_eq_none, List.mem_range, State.keyDown]
  constructor
  · intro h; ext i hi; simpa [BitVec.getLsbD_eq_getElem hi] using h i hi
  · intro h; simp [h]

/-- A key found is down, is one of the sixteen, and no lower key is down (R162). -/
theorem State.lowestKey_some (s : State) {k : Nat} (h : s.lowestKey = some k) :
    k < 16 ∧ s.keyDown k = true ∧ ∀ j, j < k → s.keyDown j = false := by
  simp only [State.lowestKey, List.find?_range_eq_some] at h
  obtain ⟨h1, h2, h3⟩ := h
  exact ⟨by simpa using h2, h1, fun j hj => by simpa using h3 j hj⟩

/-! ### Flags and results -/

theorem flagByte_cases (c : Bool) : flagByte c = 0#8 ∨ flagByte c = 1#8 := by cases c <;> simp [flagByte]

theorem flagByte_eq_one_iff (c : Bool) : flagByte c = 1#8 ↔ c = true := by cases c <;> simp [flagByte]

theorem absDiff_toNat (a b : Byte) :
    (absDiff a b).toNat = if b.toNat ≤ a.toNat then a.toNat - b.toNat else b.toNat - a.toNat := by
  have := a.isLt; have := b.isLt
  unfold absDiff
  split <;> (rw [BitVec.toNat_sub]; omega)

end Sys2Proof.Machine
end

