-- ==== Sys2Proof/Laws/PerInstr.lean ====
section
/-! SUPPORT. Statements about every instruction as syntax, one lemma per constructor. -/

/-! ### EncodesItsRow: some row of the decode table accepts the instruction's word and reads the instruction from it
(spec/30_encoding.md R73). That it is the FIRST row to accept the word is a statement of its own. -/

def Sys2Proof.Laws.EncodesItsRow.Statement (i : Sys2Proof.Instr) : Prop :=
  i.WellFormed → ∃ r ∈ Sys2Proof.opcodeTable, r.accepts (Sys2Proof.encode i) = true ∧ r.build (Sys2Proof.encode i) = i

namespace Sys2Proof.Laws.EncodesItsRow

/-- The statement from the number of the row. -/
theorem of_row {i : Instr} (k : Nat) {r : OpcodeRow} (hr : opcodeTable[k]? = some r)
    (ha : (encode i &&& r.mask) = r.pattern) (hb : r.build (encode i) = i) : Statement i := fun _ =>
  ⟨r, List.mem_of_getElem? hr, by simp [OpcodeRow.accepts, ha], hb⟩

theorem cls : Statement .cls := of_row 0 rfl rfl rfl
theorem ret : Statement .ret := of_row 1 rfl rfl rfl
theorem sys (nnn : Addr12) : Statement (.sys nnn) := of_row 2 rfl (mask_addr 0x0#4 nnn) (by simp [encode])
theorem jp (nnn : Addr12) : Statement (.jp nnn) := of_row 3 rfl (mask_addr 0x1#4 nnn) (by simp [encode])
theorem call (nnn : Addr12) : Statement (.call nnn) := of_row 4 rfl (mask_addr 0x2#4 nnn) (by simp [encode])
theorem seImm (x : RegId) (nn : Byte) : Statement (.seImm x nn) := of_row 5 rfl (mask_imm 0x3#4 x nn) (by simp [encode])
theorem sneImm (x : RegId) (nn : Byte) : Statement (.sneImm x nn) := of_row 6 rfl (mask_imm 0x4#4 x nn) (by simp [encode])
theorem seReg (x : RegId) (y : RegId) : Statement (.seReg x y) := of_row 7 rfl (mask_reg 0x5#4 x y 0x0#4) (by simp [encode])
theorem seRegAlias (x : RegId) (y : RegId) (n : Nibble) : Statement (.seRegAlias x y n) := of_row 8 rfl (mask_reg_top 0x5#4 x y n) (by simp [encode])
theorem ldImm (x : RegId) (nn : Byte) : Statement (.ldImm x nn) := of_row 9 rfl (mask_imm 0x6#4 x nn) (by simp [encode])
theorem addImm (x : RegId) (nn : Byte) : Statement (.addImm x nn) := of_row 10 rfl (mask_imm 0x7#4 x nn) (by simp [encode])
theorem ldReg (x : RegId) (y : RegId) : Statement (.ldReg x y) := of_row 11 rfl (mask_reg 0x8#4 x y 0x0#4) (by simp [encode])
theorem orReg (x : RegId) (y : RegId) : Statement (.orReg x y) := of_row 12 rfl (mask_reg 0x8#4 x y 0x1#4) (by simp [encode])
theorem andReg (x : RegId) (y : RegId) : Statement (.andReg x y) := of_row 13 rfl (mask_reg 0x8#4 x y 0x2#4) (by simp [encode])
theorem xorReg (x : RegId) (y : RegId) : Statement (.xorReg x y) := of_row 14 rfl (mask_reg 0x8#4 x y 0x3#4) (by simp [encode])
theorem addReg (x : RegId) (y : RegId) : Statement (.addReg x y) := of_row 15 rfl (mask_reg 0x8#4 x y 0x4#4) (by simp [encode])
theorem subReg (x : RegId) (y : RegId) : Statement (.subReg x y) := of_row 16 rfl (mask_reg 0x8#4 x y 0x5#4) (by simp [encode])
theorem shr (x : RegId) (y : RegId) : Statement (.shr x y) := of_row 17 rfl (mask_reg 0x8#4 x y 0x6#4) (by simp [encode])
theorem subnReg (x : RegId) (y : RegId) : Statement (.subnReg x y) := of_row 18 rfl (mask_reg 0x8#4 x y 0x7#4) (by simp [encode])
theorem shl (x : RegId) (y : RegId) : Statement (.shl x y) := of_row 19 rfl (mask_reg 0x8#4 x y 0xE#4) (by simp [encode])
theorem nopAlu (x : RegId) (y : RegId) (n : Nibble) : Statement (.nopAlu x y n) := of_row 20 rfl (mask_reg_top 0x8#4 x y n) (by simp [encode])
theorem sneReg (x : RegId) (y : RegId) : Statement (.sneReg x y) := of_row 21 rfl (mask_reg 0x9#4 x y 0x0#4) (by simp [encode])
theorem sneRegAlias (x : RegId) (y : RegId) (n : Nibble) : Statement (.sneRegAlias x y n) := of_row 22 rfl (mask_reg_top 0x9#4 x y n) (by simp [encode])
theorem ldI (nnn : Addr12) : Statement (.ldI nnn) := of_row 23 rfl (mask_addr 0xA#4 nnn) (by simp [encode])
theorem jpV0 (nnn : Addr12) : Statement (.jpV0 nnn) := of_row 24 rfl (mask_addr 0xB#4 nnn) (by simp [encode])
theorem rnd (x : RegId) (nn : Byte) : Statement (.rnd x nn) := of_row 25 rfl (mask_imm 0xC#4 x nn) (by simp [encode])
theorem drw (x : RegId) (y : RegId) (n : Nibble) : Statement (.drw x y n) := of_row 26 rfl (mask_reg_top 0xD#4 x y n) (by simp [encode])
theorem skp (x : RegId) : Statement (.skp x) := of_row 27 rfl (mask_op 0xE#4 x 0x9E#8) (by simp [encode])
theorem sknp (x : RegId) : Statement (.sknp x) := of_row 28 rfl (mask_op 0xE#4 x 0xA1#8) (by simp [encode])
theorem nopKey (x : RegId) (nn : Byte) : Statement (.nopKey x nn) := of_row 29 rfl (mask_imm 0xE#4 x nn) (by simp [encode])
theorem ldVxDt (x : RegId) : Statement (.ldVxDt x) := of_row 30 rfl (mask_op 0xF#4 x 0x07#8) (by simp [encode])
theorem ldVxK (x : RegId) : Statement (.ldVxK x) := of_row 31 rfl (mask_op 0xF#4 x 0x0A#8) (by simp [encode])
theorem ldDtVx (x : RegId) : Statement (.ldDtVx x) := of_row 32 rfl (mask_op 0xF#4 x 0x15#8) (by simp [encode])
theorem ldStVx (x : RegId) : Statement (.ldStVx x) := of_row 33 rfl (mask_op 0xF#4 x 0x18#8) (by simp [encode])
theorem addIVx (x : RegId) : Statement (.addIVx x) := of_row 34 rfl (mask_op 0xF#4 x 0x1E#8) (by simp [encode])
theorem ldFVx (x : RegId) : Statement (.ldFVx x) := of_row 35 rfl (mask_op 0xF#4 x 0x29#8) (by simp [encode])
theorem ldBVx (x : RegId) : Statement (.ldBVx x) := of_row 36 rfl (mask_op 0xF#4 x 0x33#8) (by simp [encode])
theorem storeRegs (x : RegId) : Statement (.storeRegs x) := of_row 37 rfl (mask_op 0xF#4 x 0x55#8) (by simp [encode])
theorem loadRegs (x : RegId) : Statement (.loadRegs x) := of_row 38 rfl (mask_op 0xF#4 x 0x65#8) (by simp [encode])
theorem nopMisc (x : RegId) (nn : Byte) : Statement (.nopMisc x nn) := of_row 39 rfl (mask_imm 0xF#4 x nn) (by simp [encode])

end Sys2Proof.Laws.EncodesItsRow
end

