-- ==== Sys2Proof/Tests/Slice0.lean ====
section
/-! SUPPORT. Small tests. Expected values come from spec/95_test_vectors.md (the id of each vector is named), from the
patterns of spec/30_encoding.md R73, or from the rule named. The witnesses at the end show, for each statement of
Certificates/Slice0/Obligations.lean that has hypotheses, values that meet them. -/

namespace Sys2Proof.Tests

open Sys2Proof.Machine

/-! ### Helpers -/

/-- The state a result goes on to. -/
def nextOf : Result → Option State
  | .next t => some t
  | _ => none

/-- The fault a result stops with. -/
def faultOf : Result → Option Fault
  | .fault f => some f
  | _ => none

/-- One step with the word `w` placed at PC, as Part 2 of spec/95_test_vectors.md places it. -/
def run (s : State) (w : Nat) : Option State := nextOf (step (s.withFetchWord 16 w))

/-- After reset with V1 and V2 set. -/
def two (a b : Byte) : State := (State.reset.setReg 1#4 a).setReg 2#4 b

/-- After reset with `n` live stack entries, all 0x1FE. -/
def calls (n : Fin 17) : State := { State.reset with stack := Vector.replicate 16 0x1FE#16, sp := n }

/-- After reset with V0 = 11, V1 = 22, V2 = 33, V3 = 44 (vectors M20 and M21). -/
def four : State :=
  (((State.reset.setReg 0#4 0x11#8).setReg 1#4 0x22#8).setReg 2#4 0x33#8).setReg 3#4 0x44#8

/-- After reset with I = 0300, one byte there and V1, V2 as the place of a sprite. -/
def canvas (b x y : Byte) : State := ((two x y).setI 0x300#16).writeByte 0x300 b

/-! ### Ill-formed instructions are refused by the check (R72, R73, R77, R132) -/

theorem test_illformed_sys : Instr.wf (.sys 0x0E0#12) = false ∧ Instr.wf (.sys 0x0EE#12) = false := by decide
theorem test_illformed_seRegAlias : Instr.wf (.seRegAlias 1#4 2#4 0#4) = false := by decide
theorem test_illformed_sneRegAlias : Instr.wf (.sneRegAlias 1#4 2#4 0#4) = false := by decide
theorem test_illformed_nopAlu :
    Instr.wf (.nopAlu 1#4 2#4 0x0#4) = false ∧ Instr.wf (.nopAlu 1#4 2#4 0x7#4) = false ∧
    Instr.wf (.nopAlu 1#4 2#4 0xE#4) = false := by decide
theorem test_illformed_nopKey : Instr.wf (.nopKey 1#4 0x9E#8) = false ∧ Instr.wf (.nopKey 1#4 0xA1#8) = false := by decide
theorem test_illformed_nopMisc :
    ∀ nn ∈ [0x07#8, 0x0A#8, 0x15#8, 0x18#8, 0x1E#8, 0x29#8, 0x33#8, 0x55#8, 0x65#8],
      Instr.wf (.nopMisc 1#4 nn) = false := by decide

/-! ### Every constructor's word, written out from its pattern in R73 -/

theorem test_decode_system :
    decode 0x00E0#16 = .cls ∧ decode 0x00EE#16 = .ret ∧ decode 0x0123#16 = .sys 0x123#12 ∧
    decode 0x00E1#16 = .sys 0x0E1#12 := by decide
theorem test_decode_flow :
    decode 0x1ABC#16 = .jp 0xABC#12 ∧ decode 0x2345#16 = .call 0x345#12 ∧ decode 0xB9F7#16 = .jpV0 0x9F7#12 := by decide
theorem test_decode_skips :
    decode 0x3A42#16 = .seImm 0xA#4 0x42#8 ∧ decode 0x4A42#16 = .sneImm 0xA#4 0x42#8 ∧
    decode 0x5120#16 = .seReg 1#4 2#4 ∧ decode 0x512F#16 = .seRegAlias 1#4 2#4 0xF#4 ∧
    decode 0x9120#16 = .sneReg 1#4 2#4 ∧ decode 0x9127#16 = .sneRegAlias 1#4 2#4 7#4 := by decide
theorem test_decode_loads_and_logic :
    decode 0x6A7F#16 = .ldImm 0xA#4 0x7F#8 ∧ decode 0x7A01#16 = .addImm 0xA#4 0x01#8 ∧
    decode 0x8120#16 = .ldReg 1#4 2#4 ∧ decode 0x8121#16 = .orReg 1#4 2#4 ∧ decode 0x8122#16 = .andReg 1#4 2#4 ∧
    decode 0x8123#16 = .xorReg 1#4 2#4 := by decide
theorem test_decode_flag_writers :
    decode 0x8124#16 = .addReg 1#4 2#4 ∧ decode 0x8125#16 = .subReg 1#4 2#4 ∧ decode 0x8126#16 = .shr 1#4 2#4 ∧
    decode 0x8127#16 = .subnReg 1#4 2#4 ∧ decode 0x812E#16 = .shl 1#4 2#4 ∧ decode 0x8128#16 = .nopAlu 1#4 2#4 8#4 ∧
    decode 0x812F#16 = .nopAlu 1#4 2#4 0xF#4 := by decide
theorem test_decode_random_and_display :
    decode 0xC10F#16 = .rnd 1#4 0x0F#8 ∧ decode 0xD125#16 = .drw 1#4 2#4 5#4 := by decide
theorem test_decode_keys :
    decode 0xE39E#16 = .skp 3#4 ∧ decode 0xE3A1#16 = .sknp 3#4 ∧ decode 0xE39F#16 = .nopKey 3#4 0x9F#8 := by decide
theorem test_decode_timers :
    decode 0xF307#16 = .ldVxDt 3#4 ∧ decode 0xF50A#16 = .ldVxK 5#4 ∧ decode 0xF315#16 = .ldDtVx 3#4 ∧
    decode 0xF318#16 = .ldStVx 3#4 := by decide
theorem test_decode_index :
    decode 0xA123#16 = .ldI 0x123#12 ∧ decode 0xF11E#16 = .addIVx 1#4 ∧ decode 0xF129#16 = .ldFVx 1#4 ∧
    decode 0xF133#16 = .ldBVx 1#4 ∧ decode 0xF255#16 = .storeRegs 2#4 ∧ decode 0xF265#16 = .loadRegs 2#4 ∧
    decode 0xF175#16 = .nopMisc 1#4 0x75#8 := by decide
/-- R70: the byte at the lower address is the high one; what follows is left over. -/
theorem test_decodeBytes :
    decodeBytes [0x6A#8, 0x5C#8, 0x7A#8] = .ok (.ldImm 0xA#4 0x5C#8, [0x7A#8]) ∧
    decodeBytes [0x6A#8] = .error .truncated ∧ encodeBytes (.ldImm 0xA#4 0x5C#8) = [0x6A#8, 0x5C#8] := by
  refine ⟨rfl, rfl, rfl⟩
theorem test_decodeTableWord : decodeTableWord 16 0x8124 = some (.addReg 1#4 2#4) := by decide

/-! ### Single steps, from Part 2 of spec/95_test_vectors.md -/

/-- F3. -/
theorem test_sys : (run State.reset 0x00E1).map (fun t => (t.pc, t.sp.val)) = some (0x202#16, 0) := by decide
/-- F7 and F8: an odd target is taken. -/
theorem test_jp :
    (run State.reset 0x1201).map (fun t => t.pc) = some 0x201#16 ∧
    (run State.reset 0x1FFF).map (fun t => t.pc) = some 0xFFF#16 := by decide
/-- F9. -/
theorem test_call :
    (run State.reset 0x2300).map (fun t => (t.pc, t.sp.val, t.stack[0])) = some (0x300#16, 1, 0x200#16) := by decide
/-- F11 and F12: the sixteenth entry fits, the seventeenth faults. -/
theorem test_call_full :
    (run (calls 15) 0x2200).map (fun t => (t.pc, t.sp.val, t.stack[15])) = some (0x200#16, 16, 0x200#16) ∧
    faultOf (step ((calls 16).withFetchWord 16 0x2200)) = some .stackOverflow := by decide
/-- Example E5, check two: 0x1FE + 2. -/
theorem test_ret : (run (calls 16) 0x00EE).map (fun t => (t.pc, t.sp.val)) = some (0x200#16, 15) := by decide
/-- F16. -/
theorem test_ret_empty : faultOf (step (State.reset.withFetchWord 16 0x00EE)) = some .stackUnderflow := by decide
/-- F18: 0x10FE modulo 4096. -/
theorem test_jpV0 : (run (State.reset.setReg 0#4 0xFF#8) 0xBFFF).map (fun t => t.pc) = some 0x0FE#16 := by decide
/-- S1, S2. -/
theorem test_seImm :
    (run (State.reset.setReg 0xA#4 0x42#8) 0x3A42).map (fun t => t.pc) = some 0x204#16 ∧
    (run (State.reset.setReg 0xA#4 0x43#8) 0x3A42).map (fun t => t.pc) = some 0x202#16 := by decide
/-- S13: the skip wraps. -/
theorem test_seImm_wraps : (run { State.reset with pc := 0xFFE#16 } 0x3000).map (fun t => t.pc) = some 0x002#16 := by decide
/-- S3, S4. -/
theorem test_sneImm :
    (run (State.reset.setReg 0xA#4 0x42#8) 0x4A42).map (fun t => t.pc) = some 0x202#16 ∧
    (run (State.reset.setReg 0xA#4 0x43#8) 0x4A42).map (fun t => t.pc) = some 0x204#16 := by decide
/-- S5, S6. -/
theorem test_seReg :
    (run (two 9#8 9#8) 0x5120).map (fun t => t.pc) = some 0x204#16 ∧
    (run (two 9#8 8#8) 0x5120).map (fun t => t.pc) = some 0x202#16 := by decide
/-- S8. -/
theorem test_seRegAlias : (run (two 9#8 9#8) 0x512F).map (fun t => t.pc) = some 0x204#16 := by decide
/-- S9, S10. -/
theorem test_sneReg :
    (run (two 9#8 9#8) 0x9120).map (fun t => t.pc) = some 0x202#16 ∧
    (run (two 9#8 8#8) 0x9120).map (fun t => t.pc) = some 0x204#16 := by decide
/-- S12. -/
theorem test_sneRegAlias : (run (two 9#8 8#8) 0x9127).map (fun t => t.pc) = some 0x204#16 := by decide
/-- A1, and F21: the fetch wraps from 0xFFF to 0x000. -/
theorem test_ldImm :
    (run State.reset 0x6A7F).map (fun t => (t.pc, t.reg 0xA#4)) = some (0x202#16, 0x7F#8) ∧
    (run { State.reset with pc := 0xFFF#16 } 0x6005).map (fun t => (t.pc, t.reg 0#4)) = some (0x001#16, 0x05#8) := by decide
/-- A3: wraps, VF untouched. -/
theorem test_addImm :
    (run ((State.reset.setReg 0xA#4 0xFF#8).setReg vf 7#8) 0x7A01).map (fun t => (t.reg 0xA#4, t.reg vf)) =
      some (0x00#8, 7#8) := by decide
/-- A6. -/
theorem test_ldReg :
    (run ((two 0x01#8 0xAB#8).setReg vf 7#8) 0x8120).map (fun t => (t.reg 1#4, t.reg vf)) = some (0xAB#8, 7#8) := by decide
/-- A7. -/
theorem test_orReg :
    (run ((two 0xF0#8 0x3C#8).setReg vf 7#8) 0x8121).map (fun t => (t.reg 1#4, t.reg vf)) = some (0xFC#8, 7#8) := by decide
/-- A8. -/
theorem test_andReg :
    (run ((two 0xF0#8 0x3C#8).setReg vf 7#8) 0x8122).map (fun t => (t.reg 1#4, t.reg vf)) = some (0x30#8, 7#8) := by decide
/-- A9. -/
theorem test_xorReg :
    (run ((two 0xF0#8 0x3C#8).setReg vf 7#8) 0x8123).map (fun t => (t.reg 1#4, t.reg vf)) = some (0xCC#8, 7#8) := by decide
/-- A12, A13: 255 is no carry. -/
theorem test_addReg :
    (run (two 0xFF#8 0x01#8) 0x8124).map (fun t => (t.reg 1#4, t.reg vf)) = some (0x00#8, 1#8) ∧
    (run ((two 0xFF#8 0x00#8).setReg vf 1#8) 0x8124).map (fun t => (t.reg 1#4, t.reg vf)) = some (0xFF#8, 0#8) := by decide
/-- A16: with VF as destination the flag stays. -/
theorem test_addReg_vf : (run ((two 0#8 2#8).setReg vf 0xFF#8) 0x8F24).map (fun t => t.reg vf) = some 1#8 := by decide
/-- A18, A19, A20: the absolute difference; equal is no borrow. -/
theorem test_subReg :
    (run (two 0x50#8 0x20#8) 0x8125).map (fun t => (t.reg 1#4, t.reg vf)) = some (0x30#8, 1#8) ∧
    (run ((two 0x20#8 0x50#8).setReg vf 1#8) 0x8125).map (fun t => (t.reg 1#4, t.reg vf)) = some (0x30#8, 0#8) ∧
    (run (two 0x33#8 0x33#8) 0x8125).map (fun t => (t.reg 1#4, t.reg vf)) = some (0x00#8, 1#8) := by decide
/-- A25: V2 is ignored. -/
theorem test_shr : (run (two 0x05#8 0xAA#8) 0x8126).map (fun t => (t.reg 1#4, t.reg 2#4, t.reg vf)) =
    some (0x02#8, 0xAA#8, 1#8) := by decide
/-- A29. -/
theorem test_shr_vf : (run (State.reset.setReg vf 3#8) 0x8F26).map (fun t => t.reg vf) = some 1#8 := by decide
/-- A30, A31. -/
theorem test_subnReg :
    (run (two 0x20#8 0x50#8) 0x8127).map (fun t => (t.reg 1#4, t.reg vf)) = some (0x30#8, 1#8) ∧
    (run ((two 0x50#8 0x20#8).setReg vf 1#8) 0x8127).map (fun t => (t.reg 1#4, t.reg vf)) = some (0x30#8, 0#8) := by decide
/-- A34: V2 is ignored. -/
theorem test_shl : (run (two 0x81#8 0x55#8) 0x812E).map (fun t => (t.reg 1#4, t.reg 2#4, t.reg vf)) =
    some (0x02#8, 0x55#8, 1#8) := by decide
/-- A37. -/
theorem test_shl_vf : (run (State.reset.setReg vf 0x80#8) 0x8FFE).map (fun t => t.reg vf) = some 1#8 := by decide
/-- A39. -/
theorem test_nopAlu :
    (run ((two 1#8 2#8).setReg vf 1#8) 0x812F).map (fun t => (t.pc, t.reg 1#4, t.reg 2#4, t.reg vf)) =
      some (0x202#16, 1#8, 2#8, 1#8) := by decide
/-- A42: a mask of 0 gives 0 whatever is drawn; the byte is drawn (R133). -/
theorem test_rnd : (run (two 9#8 0#8) 0xC100).map (fun t => (t.pc, t.draws)) = some (0x202#16, 1) := by decide
/-- M2, M4: I is loaded whole, and passes 0x0FFF with no flag. -/
theorem test_ldI : (run (State.reset.setI 0x1234#16) 0xAFFF).map (fun t => t.i) = some 0x0FFF#16 := by decide
theorem test_addIVx :
    (run (((two 1#8 0#8).setReg vf 1#8).setI 0x0FFF#16) 0xF11E).map (fun t => (t.i, t.reg vf)) = some (0x1000#16, 1#8) := by
  decide
/-- M8, M10. -/
theorem test_ldFVx :
    (run (two 0x0F#8 0#8) 0xF129).map (fun t => t.i) = some 0x009B#16 ∧
    (run (two 0xFF#8 0#8) 0xF129).map (fun t => t.i) = some 0x054B#16 := by decide
/-- M16: the third digit wraps to 0x000. -/
theorem test_ldBVx :
    (run ((two 0xEA#8 0#8).setI 0x0FFE#16) 0xF133).map (fun t => (t.readByte 0xFFE, t.readByte 0xFFF, t.readByte 0, t.i)) =
      some (2#8, 3#8, 4#8, 0x0FFE#16) := by decide
/-- M20: V3 is not stored, I stays. -/
theorem test_storeRegs :
    (run (four.setI 0x300#16) 0xF255).map (fun t => (t.readBytes 0x300 4, t.i)) =
      some ([0x11#8, 0x22#8, 0x33#8, 0x00#8], 0x300#16) := by decide
/-- M21. -/
theorem test_storeRegs_wraps :
    (run (four.setI 0xFFF#16) 0xF255).map (fun t => (t.readByte 0xFFF, t.readByte 0, t.readByte 1)) =
      some (0x11#8, 0x22#8, 0x33#8) := by decide
/-- M24, with a third byte read at 0x001 (R146) and V3 untouched. -/
theorem test_loadRegs :
    (run (((four.setI 0xFFF#16).writeByte 0xFFF 0x5A#8).writeByte 0 0xA5#8) 0xF265).map
      (fun t => (t.reg 0#4, t.reg 1#4, t.reg 2#4, t.reg 3#4, t.i)) =
      some (0x5A#8, 0xA5#8, 0x00#8, 0x44#8, 0xFFF#16) := by decide
/-- DR1. -/
theorem test_cls :
    (run ((State.reset.setFb (Vector.replicate 32 0x8000000000000401#64)).setReg vf 1#8) 0x00E0).map
      (fun t => (t.pixel 0 0, t.pixel 63 31, t.pixel 10 5, t.reg vf)) = some (false, false, false, 1#8) := by decide
/-- DR6, DR9: clipped at the edges, no wrap. -/
theorem test_drw_clips :
    (run (canvas 0xFF#8 0x3C#8 0x1F#8) 0xD121).map
      (fun t => (t.pixel 59 31, t.pixel 60 31, t.pixel 63 31, t.pixel 0 31, t.pixel 0 0, t.reg vf)) =
      some (false, true, true, false, false, 0#8) := by decide
/-- DR16: one hit is enough. -/
theorem test_drw_collides :
    (run ((canvas 0xC0#8 0#8 0#8).setFb (Vector.replicate 32 2#64)) 0xD121).map
      (fun t => (t.pixel 0 0, t.pixel 1 0, t.pixel 1 1, t.reg vf)) = some (true, false, true, 1#8) := by decide
/-- K5: the index is V3 modulo 16. -/
theorem test_skp :
    (run { State.reset.setReg 3#4 0x1A#8 with keys := 0x0400#16 } 0xE39E).map (fun t => t.pc) = some 0x204#16 ∧
    (run { State.reset.setReg 3#4 0x0A#8 with keys := 0xFBFF#16 } 0xE39E).map (fun t => t.pc) = some 0x202#16 := by decide
/-- K6, K4. -/
theorem test_sknp :
    (run { State.reset.setReg 3#4 0xF0#8 with keys := 0x0001#16 } 0xE3A1).map (fun t => t.pc) = some 0x202#16 ∧
    (run (State.reset.setReg 3#4 0x0A#8) 0xE3A1).map (fun t => t.pc) = some 0x204#16 := by decide
/-- K7. -/
theorem test_nopKey : (run { State.reset with keys := 0xFFFF#16 } 0xE39F).map (fun t => t.pc) = some 0x202#16 := by decide
/-- K14: read before the tick. -/
theorem test_ldVxDt : (run (State.reset.setDt 4#8) 0xF307).map (fun t => (t.reg 3#4, t.dt)) = some (4#8, 3#8) := by decide
/-- K9: waits, and the timers tick. -/
theorem test_ldVxK_waits :
    (run ((State.reset.setDt 2#8).setSt 1#8) 0xF50A).map (fun t => (t.pc, t.dt, t.st)) = some (0x200#16, 1#8, 0#8) := by decide
/-- K10: the least of keys 3 and 9. -/
theorem test_ldVxK_takes :
    (run { State.reset with keys := 0x0208#16 } 0xF50A).map (fun t => (t.pc, t.reg 5#4)) = some (0x202#16, 3#8) := by decide
/-- K16, K18: written, then ticked; 0 stays 0. -/
theorem test_ldDtVx :
    (run (State.reset.setReg 3#4 5#8) 0xF315).map (fun t => t.dt) = some 4#8 ∧
    (run (State.reset.setDt 7#8) 0xF315).map (fun t => t.dt) = some 0#8 := by decide
/-- K20, K21. -/
theorem test_ldStVx :
    (run (State.reset.setReg 3#4 3#8) 0xF318).map (fun t => (t.st, soundActive t)) = some (2#8, true) ∧
    (run (State.reset.setReg 3#4 1#8) 0xF318).map (fun t => (t.st, soundActive t)) = some (0#8, false) := by decide
/-- K24: 0x75 is not 0x55. -/
theorem test_nopMisc :
    (run ((two 2#8 0#8).setI 0x300#16) 0xF175).map (fun t => (t.pc, t.readByte 0x301, t.i)) =
      some (0x202#16, 0#8, 0x300#16) := by decide

/-! ### Host operations (vectors H1 to H10, R42) -/

theorem test_reset_font : State.reset.readBytes 0x04F 6 = [0x00#8, 0xF0#8, 0x90#8, 0x90#8, 0x90#8, 0xF0#8] := by decide
/-- R7, R56: reset seeds the FONT of the instance, over what a program stored there. -/
theorem test_reset_other_font :
    (State.construct (Vector.replicate 80 0x18#8) 0).readBytes 0x09E 3 = [0x18#8, 0x18#8, 0x00#8] ∧
    (resetCore ((State.construct (Vector.replicate 80 0x18#8) 0).writeByte 0x050 0x77#8)).readByte 0x050 = 0x18#8 := by decide
/-- R133, R178: one byte of the injected source is consumed, also with a mask of 0. -/
theorem test_injectSource :
    (run (injectSource 3 7 State.reset) 0xC100).map (fun t => (t.source, t.draws)) = some (3, 8) := by decide
/-- H7: a load does not reset. -/
theorem test_loadProgram :
    (match loadProgram [0x12#8, 0x00#8] { State.reset.setReg 3#4 7#8 with pc := 0x300#16 } with
      | .ok t => some (t.readBytes 0x200 2, t.pc, t.reg 3#4)
      | .error _ => none) = some ([0x12#8, 0x00#8], 0x300#16, 7#8) := by decide
/-- H8: reset takes the program away, and the key flags stay (R42). -/
theorem test_reset_clears_program :
    (resetCore ({ State.reset with keys := 5#16 }.writeByte 0x200 0x60#8)).readByte 0x200 = 0#8 ∧
    (resetCore { State.reset with keys := 5#16 }).keys = 5#16 := by decide

/-! ### Witnesses: the hypotheses of the statements can be met -/

theorem witness_WellFormed :
    (Instr.sys 0x0E1#12).WellFormed ∧ (Instr.nopAlu 1#4 2#4 8#4).WellFormed ∧ (Instr.nopKey 1#4 0xFF#8).WellFormed ∧
    (Instr.nopMisc 1#4 0x75#8).WellFormed ∧ (Instr.seRegAlias 1#4 2#4 1#4).WellFormed := by decide

/-- PC at the last address, so that the low byte is at address 0. -/
def atTop : State := ({ State.reset with pc := 0xFFF#16 }).withFetchWord 16 0x6005

theorem witness_StepRunsTheFetchedInstruction_next :
    (Instr.ldImm 0#4 5#8).WellFormed ∧
    decode (atTop.readByte atTop.pc.toNat ++ atTop.readByte ((atTop.pc.toNat + 1) % 4096)) = .ldImm 0#4 5#8 ∧
    ∃ t, exec (.ldImm 0#4 5#8) atTop = .next t := ⟨by decide, by decide, _, rfl⟩
/-- A fetched RET with an empty stack. -/
def retEmpty : State := State.reset.withFetchWord 16 0x00EE
theorem witness_StepRunsTheFetchedInstruction_fault :
    Instr.ret.WellFormed ∧
    decode (retEmpty.readByte retEmpty.pc.toNat ++ retEmpty.readByte ((retEmpty.pc.toNat + 1) % 4096)) = .ret ∧
    exec .ret retEmpty = .fault .stackUnderflow := ⟨by decide, by decide, rfl⟩

/-- V3 is 5, both timers run, and the word at PC is `w`. -/
def timing (w : Nat) : State := (((State.reset.setReg 3#4 5#8).setDt 1#8).setSt 0#8).withFetchWord 16 w
theorem witness_TimersTickOncePerStep :
    (∃ t, step (timing 0xF315) = .next t) ∧ decode (timing 0xF315).fetchWord = .ldDtVx 3#4 ∧
    (∃ t, step (timing 0xF318) = .next t) ∧ decode (timing 0xF318).fetchWord = .ldStVx 3#4 ∧
    (∃ t, step (timing 0x00E0) = .next t) ∧ decode (timing 0x00E0).fetchWord = .cls :=
  ⟨⟨_, rfl⟩, by decide, ⟨_, rfl⟩, by decide, ⟨_, rfl⟩, by decide⟩
theorem witness_TimersAreSetThenTicked :
    decode (timing 0xF315).fetchWord = .ldDtVx 3#4 ∧ decode (timing 0xF318).fetchWord = .ldStVx 3#4 := by decide
theorem witness_DelayTimerIsReadBeforeTheTick : decode (timing 0xF307).fetchWord = .ldVxDt 3#4 := by decide
theorem witness_StepIsTotal : atTop.pc.toNat ≤ 0x0FFF ∧ atTop.pc.toNat = 0x0FFF := by decide
theorem witness_StepFaultsExactlyAtStackBounds :
    retEmpty.fetchWord = 0x00EE#16 ∧ retEmpty.sp.val = 0 ∧ fieldT ((calls 16).withFetchWord 16 0x2200).fetchWord = 0x2#4 ∧
    ((calls 16).withFetchWord 16 0x2200).sp.val = 16 := by decide
theorem witness_SysOnlyAdvancesPc :
    ((0x0DF#12 : Addr12) ≠ 0x0E0#12 ∧ (0x0DF#12 : Addr12) ≠ 0x0EE#12) ∧
    ((0xFFF#12 : Addr12) ≠ 0x0E0#12 ∧ (0xFFF#12 : Addr12) ≠ 0x0EE#12) := by decide
theorem witness_CallPushesItsOwnAddress : (calls 15).sp.val < 16 ∧ (calls 0).sp.val < 16 ∧ (calls 16).sp.val = 16 := by decide
theorem witness_CallPushesItsOwnAddress_entry : (0 : Nat) < 16 ∧ 0 ≠ (calls 15).sp.val := by decide
theorem witness_ReturnPopsAndAddsTwo :
    0 < (calls 1).sp.val ∧ 0 < (calls 16).sp.val ∧ retEmpty.sp.val = 0 ∧ retEmpty.fetchWord = 0x00EE#16 := by decide
theorem witness_ReturnUndoesCall :
    ∃ t u : State, exec (.call 0x300#12) (calls 15) = .next t ∧ u.stack = t.stack ∧ u.sp = t.sp ∧ u.pc ≠ t.pc :=
  ⟨{ calls 15 with pc := 0x300#16, sp := 16, stack := (calls 15).stack.set 15 0x200#16 },
   { calls 15 with pc := 0x310#16, sp := 16, stack := (calls 15).stack.set 15 0x200#16 }, rfl, rfl, rfl, by decide⟩
theorem witness_AliasSkipsIgnoreLowNibble : (1#4 : Nibble) ≠ 0#4 ∧ (0xF#4 : Nibble) ≠ 0#4 := by decide
/-- For the five arithmetic statements with a flag: a destination that is not VF. -/
theorem witness_not_vf : (0xE#4 : RegId) ≠ 0xF#4 ∧ (0#4 : RegId) ≠ 0xF#4 := by decide
theorem witness_UnmatchedWordsDoNothing :
    (0x8#4 ∈ [0x8#4, 0x9#4, 0xA#4, 0xB#4, 0xC#4, 0xD#4, 0xF#4]) ∧ (0x9F#8 ∉ [0x9E#8, 0xA1#8]) ∧
    (0x75#8 ∉ [0x07#8, 0x0A#8, 0x15#8, 0x18#8, 0x1E#8, 0x29#8, 0x33#8, 0x55#8, 0x65#8]) ∧
    decode (State.reset.withFetchWord 16 0x8128).fetchWord = .nopAlu 1#4 2#4 8#4 ∧
    decode (State.reset.withFetchWord 16 0xE39F).fetchWord = .nopKey 3#4 0x9F#8 ∧
    decode (State.reset.withFetchWord 16 0xF175).fetchWord = .nopMisc 1#4 0x75#8 := by decide
theorem witness_FlagsAreZeroOrOne :
    flagWriters (.addReg 0xF#4 0#4) = true ∧ flagWriters (.shl 1#4 2#4) = true ∧ flagWriters (.drw 0xF#4 0xF#4 0#4) = true := by
  decide
/-- For the transfers of V[0] to V[X]: both ends of the range. -/
theorem witness_register_range : (0#4 : RegId).toNat ≤ (0xF#4 : RegId).toNat ∧ (0xF#4 : RegId).toNat ≤ (0xF#4 : RegId).toNat ∧
    (0#4 : RegId).toNat ≤ (0#4 : RegId).toNat := by decide
theorem witness_LoadRestoresStoredRegisters : ∃ t, exec (.storeRegs 2#4) four = .next t := ⟨_, rfl⟩
/-- Registers about to be stored over the next instruction. -/
def storeOverNext : State := four.setI 0x202#16
theorem witness_StoreIsSeenByNextFetch :
    ∃ t, exec (.storeRegs 1#4) storeOverNext = .next t ∧ 1 ≤ (1#4 : RegId).toNat ∧ storeOverNext.i.toNat % 4096 = t.pc.toNat :=
  ⟨_, rfl, by decide, by decide⟩
theorem witness_grid : (63 : Nat) ≤ 63 ∧ (31 : Nat) ≤ 31 ∧ (0 : Nat) ≤ 63 ∧ (0 : Nat) ≤ 31 ∧ (63 : Nat) < 64 ∧ (31 : Nat) < 32 := by
  decide
/-- DR7: the last pixel of the grid, lit before. -/
def lastPixel : State := (canvas 0x80#8 0x3F#8 0x1F#8).setFb (Vector.replicate 32 0x8000000000000000#64)
theorem witness_DrawInvertsSpritePixels : spriteCovers lastPixel 1#4 2#4 1#4 63 31 :=
  ⟨0, 0, by decide, by decide, by decide, by decide, by decide⟩
theorem witness_DrawInvertsSpritePixels_uncovered : ¬ spriteCovers lastPixel 1#4 2#4 1#4 0 0 := by
  rintro ⟨r, c, _, _, h, _, _⟩
  have : (lastPixel.reg 1#4).toNat = 63 := by decide
  omega
theorem witness_DrawFlagIsCollision :
    ∃ px py, px ≤ 63 ∧ py ≤ 31 ∧ spriteCovers lastPixel 1#4 2#4 1#4 px py ∧ lastPixel.pixel px py = true :=
  ⟨63, 31, by decide, by decide, witness_DrawInvertsSpritePixels, by decide⟩
theorem witness_DrawFlagIsCollision_none :
    ¬ ∃ px py, px ≤ 63 ∧ py ≤ 31 ∧ spriteCovers State.reset 1#4 2#4 0#4 px py ∧ State.reset.pixel px py = true := by
  rintro ⟨px, py, _, _, ⟨r, c, h, _⟩, _⟩
  exact absurd h (Nat.not_lt_zero r)
theorem witness_DrawingTwiceRestores :
    (1#4 : RegId) ≠ 0xF#4 ∧ (2#4 : RegId) ≠ 0xF#4 ∧ ∃ t, exec (.drw 1#4 2#4 1#4) lastPixel = .next t :=
  ⟨by decide, by decide, _, rfl⟩
theorem witness_KeyWaitPolls :
    State.reset.keys = 0#16 ∧ ({ State.reset with keys := 0x8000#16 } : State).keys ≠ 0#16 ∧
    decode (State.reset.withFetchWord 16 0xF50A).fetchWord = .ldVxK 5#4 := by decide
theorem witness_ResetLeavesTheTable :
    (0x04F : Nat) < 0x050 ∧ (0x09F < (0x0A0 : Nat) ∧ (0x0A0 : Nat) < 4096) ∧ (79 : Nat) < 80 ∧ (15 : Nat) < 16 := by decide
theorem witness_LoadProgramWritesOnlyTheBytes_fits :
    (List.replicate 3584 0xAB#8).length ≤ 3584 ∧ ([] : List Byte).length ≤ 3584 ∧ (0 : Nat) < [0x12#8].length ∧
    (0x1FF : Nat) < 4096 ∧ (0x1FF : Nat) < 0x200 ∧ 0x200 + [0x12#8].length ≤ 0x201 :=
  ⟨Nat.le_of_eq List.length_replicate, by decide, by decide, by decide, by decide, by decide⟩
theorem witness_LoadProgramWritesOnlyTheBytes_large : 3584 < (List.replicate 3585 0xAB#8).length := by
  rw [List.length_replicate]; decide
theorem witness_SetKeyChangesOneFlag : (15 : Nat) < 16 ∧ (14 : Nat) ≠ 15 ∧ (16 : Nat) ≤ 16 := by decide
theorem witness_FaultRepeatsUntilReset :
    step retEmpty = .fault .stackUnderflow ∧ step ((calls 16).withFetchWord 16 0x2200) = .fault .stackOverflow :=
  ⟨rfl, rfl⟩
/-- One live entry, and a call at PC. -/
def calling : State := (calls 1).withFetchWord 16 0x2200
theorem calling_liveEntries : calling.liveEntries = [0x1FE#16] := by decide
theorem witness_Inv : calling.Inv := by
  refine ⟨by decide, fun w hw => ?_, by decide⟩
  rw [calling_liveEntries, List.mem_singleton] at hw
  subst hw
  decide
theorem witness_StepKeepsInvariant : calling.Inv ∧ ∃ t, step calling = .next t := ⟨witness_Inv, _, rfl⟩
theorem witness_PcStaysEvenWithoutOddTargets :
    calling.EvenPc ∧ (∃ t, step calling = .next t) ∧
    (∀ nnn, decode calling.fetchWord = .jp nnn ∨ decode calling.fetchWord = .call nnn → nnn.toNat % 2 = 0) ∧
    (∀ nnn, decode calling.fetchWord = .jpV0 nnn → (nnn.toNat + (calling.reg 0#4).toNat) % 2 = 0) := by
  have h : decode calling.fetchWord = .call 0x200#12 := by decide
  refine ⟨⟨by decide, fun w hw => ?_⟩, ⟨_, rfl⟩, fun nnn hn => ?_, fun nnn hn => ?_⟩
  · rw [calling_liveEntries, List.mem_singleton] at hw
    subst hw
    decide
  · rw [h] at hn
    rcases hn with hn | hn
    · cases hn
    · cases hn; decide
  · rw [h] at hn; cases hn
/-- For the two statements about every instruction that completes. -/
theorem witness_exec_next :
    (∃ t, exec (.storeRegs 0xF#4) storeOverNext = .next t) ∧ (∃ t, exec .ret (calls 1) = .next t) ∧
    (∃ t, exec (.ldVxK 0#4) State.reset = .next t) := ⟨⟨_, rfl⟩, ⟨_, rfl⟩, ⟨_, rfl⟩⟩
theorem witness_WritesOnlyWhatTheTableGives :
    (vf ∉ destRegs (.ldImm 0#4 0#8)) ∧ (Instr.ret ≠ .cls ∧ ∀ x y n, Instr.ret ≠ .drw x y n) ∧
    (Instr.cls ≠ .ret ∧ ∀ nnn, Instr.cls ≠ .call nnn) := ⟨by decide, ⟨by decide, by simp⟩, ⟨by decide, by simp⟩⟩
theorem witness_InputsAreReadOnlyWhereListed :
    readsKeys (.rnd 0#4 0xFF#8) = false ∧ readsRandom (.skp 0#4) = false := by decide
/-- Two states that differ above SP only. -/
theorem witness_DeadStackEntriesAreNotObservable :
    calls 0 = { State.reset with stack := (calls 0).stack } ∧ (calls 0).liveEntries = State.reset.liveEntries ∧
    calls 0 ≠ State.reset := ⟨rfl, by decide, by decide⟩

end Sys2Proof.Tests
end

section
/-! SUPPORT. The rules by which the invariant is kept: one for each operation of the state, one for an instruction, one for a
step, one for a host operation, and the induction over a run (spec/00_scope.md R8, R9; spec/10_state.md R25, R35). -/

namespace Sys2Proof.Machine

variable {s t : State}

/-! ### What a push and a pop do to the live entries (R33, R34) -/

theorem State.push_liveEntries {w : Word} (h : s.push w = some t) : t.liveEntries = s.liveEntries ++ [w] := by
  obtain ⟨-, hnone⟩ | ⟨hlt, hsome⟩ := s.push_cases w
  · rw [hnone] at h; cases h
  · rw [hsome] at h
    cases h
    have hlen : s.sp.val < (s.stack.toList.set s.sp.val w).length := by
      rw [List.length_set, Vector.length_toList]; exact hlt
    change (s.stack.set s.sp.val w hlt).toList.take (s.sp.val + 1) = s.stack.toList.take s.sp.val ++ [w]
    rw [Vector.toList_set, ← List.take_append_getElem hlen, List.take_set_of_le (Nat.le_refl _), List.getElem_set_self]

theorem State.push_frame {w : Word} (h : s.push w = some t) : t = { s with stack := t.stack, sp := t.sp } := by
  obtain ⟨-, hnone⟩ | ⟨hlt, hsome⟩ := s.push_cases w
  · rw [hnone] at h; cases h
  · rw [hsome] at h; cases h; rfl

theorem State.pop_liveEntries {a : Word} (h : s.pop = some (a, t)) : s.liveEntries = t.liveEntries ++ [a] := by
  obtain ⟨-, hnone⟩ | ⟨hpos, hsome⟩ := s.pop_cases
  · rw [hnone] at h; cases h
  · rw [hsome] at h
    cases h
    have htop : s.sp.val - 1 < s.stack.toList.length := by
      rw [Vector.length_toList]; omega
    have htake := List.take_append_getElem htop
    rw [Nat.sub_add_cancel hpos] at htake
    exact htake.symm

theorem State.pop_frame {a : Word} (h : s.pop = some (a, t)) : t = { s with sp := t.sp } := by
  obtain ⟨-, hnone⟩ | ⟨hpos, hsome⟩ := s.pop_cases
  · rw [hnone] at h; cases h
  · rw [hsome] at h; cases h; rfl

/-! ### One rule for each operation of the state -/

theorem State.Inv.setReg {x : RegId} {b : Byte} (h : s.Inv) : (s.setReg x b).Inv := h

theorem State.Inv.setI {w : Word} (h : s.Inv) : (s.setI w).Inv := h

theorem State.Inv.setDt {b : Byte} (h : s.Inv) : (s.setDt b).Inv := h

theorem State.Inv.setSt {b : Byte} (h : s.Inv) : (s.setSt b).Inv := h

theorem State.Inv.setFb {fb : Framebuffer} (h : s.Inv) : (s.setFb fb).Inv := h

theorem State.Inv.rndDrawn (h : s.Inv) : s.rndDrawn.Inv := h

theorem State.Inv.tick (h : s.Inv) : s.tick.Inv := h

theorem State.Inv.loadRegsFrom {a n : Nat} (h : s.Inv) : (s.loadRegsFrom a n).Inv := by
  rw [State.loadRegsFrom_frame]; exact h

theorem State.Inv.writeBytes {a : Nat} {bs : List Byte} (h : s.Inv) : (s.writeBytes a bs).Inv := by
  obtain ⟨hpc, hlive, hmem⟩ := h
  rw [State.writeBytes_frame]
  exact ⟨hpc, hlive, State.wf_writeBytes s a bs hmem⟩

/-- Every assignment to PC is reduced modulo 4096 (R25, decision D2), whatever PC was. -/
theorem State.Inv.setPc {n : Nat} (h : s.Inv) : (s.setPc n).Inv := by
  obtain ⟨-, hlive, hmem⟩ := h
  exact ⟨by rw [State.setPc_toNat]; omega, hlive, hmem⟩

theorem State.Inv.advance (h : s.Inv) : s.advance.Inv := h.setPc

theorem State.Inv.skipIf {c : Bool} (h : s.Inv) : (s.skipIf c).Inv := h.setPc

/-- Only PC is ever pushed, and PC is in range (R104). -/
theorem State.Inv.push_pc (h : s.Inv) (ht : s.push s.pc = some t) : t.Inv := by
  obtain ⟨hpc, hlive, hmem⟩ := h
  have hlive' : ∀ w ∈ t.liveEntries, w.toNat ≤ 0x0FFF := by
    intro w hw
    rw [State.push_liveEntries ht, List.mem_append, List.mem_singleton] at hw
    obtain hw | rfl := hw
    · exact hlive w hw
    · exact hpc
  rw [State.push_frame ht] at hlive' ⊢
  exact ⟨hpc, hlive', hmem⟩

/-- The entries left after a pop were live before it (R34). -/
theorem State.Inv.pop {a : Word} (h : s.Inv) (ht : s.pop = some (a, t)) : t.Inv := by
  obtain ⟨hpc, hlive, hmem⟩ := h
  have hlive' : ∀ w ∈ t.liveEntries, w.toNat ≤ 0x0FFF := fun w hw =>
    hlive w (by rw [State.pop_liveEntries ht]; exact List.mem_append_left _ hw)
  rw [State.pop_frame ht] at hlive' ⊢
  exact ⟨hpc, hlive', hmem⟩

/-! ### An instruction -/

/-- The state a result holds, if it holds one, meets the invariant. -/
def ResultInv (r : Result) : Prop := ∀ t, r = .next t → t.Inv

theorem resultInv_next (h : t.Inv) : ResultInv (.next t) := by
  intro u hu; cases hu; exact h

theorem resultInv_raise (f : Fault) : ResultInv (raise f) := by
  intro u hu; cases hu

theorem resultInv_writeReg {x : RegId} {r : Byte} (h : s.Inv) : ResultInv (writeReg x r s) :=
  resultInv_next h.setReg.advance

theorem resultInv_writeRegFlag {x : RegId} {r flag : Byte} (h : s.Inv) : ResultInv (writeRegFlag x r flag s) :=
  resultInv_next h.setReg.setReg.advance

theorem resultInv_execRet (h : s.Inv) : ResultInv (execRet s) := by
  unfold execRet
  split
  next a t ht => exact resultInv_next (h.pop ht).setPc
  next => exact resultInv_raise _

theorem resultInv_execCall {nnn : Addr12} (h : s.Inv) : ResultInv (execCall nnn s) := by
  unfold execCall
  split
  next t ht => exact resultInv_next (h.push_pc ht).setPc
  next => exact resultInv_raise _

theorem resultInv_execLdVxK {x : RegId} (h : s.Inv) : ResultInv (execLdVxK x s) := by
  unfold execLdVxK
  split
  next => exact resultInv_next h
  next => exact resultInv_next h.setReg.advance

/-- Every instruction keeps the invariant: most end with `next` or `skip` after an update of one part of the state. -/
theorem resultInv_exec (h : s.Inv) (i : Instr) : ResultInv (exec i s) := by
  cases i with
  | ret => exact resultInv_execRet h
  | call nnn => exact resultInv_execCall h
  | jp _ | jpV0 _ => exact resultInv_next h.setPc
  | seImm _ _ | sneImm _ _ | seReg _ _ | seRegAlias _ _ _ | sneReg _ _ | sneRegAlias _ _ _ | skp _ | sknp _ =>
    exact resultInv_next h.skipIf
  | sys _ | nopAlu _ _ _ | nopKey _ _ | nopMisc _ _ => exact resultInv_next h.advance
  | ldImm _ _ | addImm _ _ | ldReg _ _ | orReg _ _ | andReg _ _ | xorReg _ _ | ldVxDt _ => exact resultInv_writeReg h
  | addReg _ _ | subReg _ _ | shr _ _ | subnReg _ _ | shl _ _ => exact resultInv_writeRegFlag h
  | rnd _ _ => exact resultInv_writeReg h.rndDrawn
  | ldVxK _ => exact resultInv_execLdVxK h
  | ldI _ | addIVx _ | ldFVx _ => exact resultInv_next h.setI.advance
  | ldDtVx _ => exact resultInv_next h.setDt.advance
  | ldStVx _ => exact resultInv_next h.setSt.advance
  | cls => exact resultInv_next h.setFb.advance
  | drw _ _ _ => exact resultInv_next h.setFb.setReg.advance
  | ldBVx _ | storeRegs _ => exact resultInv_next h.writeBytes.advance
  | loadRegs _ => exact resultInv_next h.loadRegsFrom.advance

/-! ### A step -/

theorem step_keeps_inv (h : s.Inv) (ht : step s = .next t) : t.Inv := by
  obtain ⟨u, hu, rfl⟩ := (finishStep_next_iff _ t).mp ht
  exact (resultInv_exec h _ u hu).tick

/-! ### A host operation, and a run of them (R9, R170) -/

/-- A load that is too large is refused and changes nothing (R172). -/
theorem applyMove_loadProgram (bytes : List Byte) (s : State) :
    applyMove (.loadProgram bytes) s = if 3584 < bytes.length then s else s.writeBytes 0x200 bytes := by
  by_cases hlen : 3584 < bytes.length
  · simp only [applyMove, loadProgram, Config.romMax, hlen, if_true]
  · simp only [applyMove, loadProgram, Config.romMax, hlen, if_false]

theorem setKey_frame (index : Nat) (pressed : Bool) (s : State) :
    setKey index pressed s = { s with keys := (setKey index pressed s).keys } := by
  unfold setKey
  split
  next => rfl
  next => rfl

theorem inv_resetCore (s : State) : (resetCore s).Inv :=
  ⟨by rw [resetCore_pc]; decide, fun w hw => absurd hw List.not_mem_nil, rfl⟩

theorem hostStep_keeps_inv (h : s.Inv) : (hostStep s).1.Inv := by
  unfold hostStep
  split
  next t ht => exact step_keeps_inv h ht
  next => exact h
  next => exact h

theorem applyMove_keeps_inv (m : HostMove) (h : s.Inv) : (applyMove m s).Inv := by
  cases m with
  | reset => exact inv_resetCore s
  | loadProgram bytes =>
    rw [applyMove_loadProgram]
    split
    next => exact h
    next => exact h.writeBytes
  | setKey index pressed =>
    change (setKey index pressed s).Inv
    rw [setKey_frame]; exact h
  | injectSource source place => exact h
  | step => exact hostStep_keeps_inv h

/-- Induction over a run: what every host operation keeps, every run keeps. -/
theorem hostRun_induction {P : State → Prop} (hP : ∀ m s, P s → P (applyMove m s)) (ms : List HostMove) (h : P s) :
    P (hostRun ms s) := by
  induction ms generalizing s with
  | nil => exact h
  | cons m ms ih => exact ih (hP m s h)

end Sys2Proof.Machine
end

section
/-! PROOFS. The statement about runs of host operations. -/

open Sys2Proof Sys2Proof.Machine

/-- Settles O51, by induction over the run: each host operation keeps the invariant. -/
theorem everyRunKeepsInvariant : Obligations.EveryRunKeepsInvariant := by
  unfold Obligations.EveryRunKeepsInvariant
  intro ms s hs
  exact hostRun_induction (fun m _ => applyMove_keeps_inv m) ms hs

end

section
/-! SUPPORT. What an instruction that completes leaves as it was, part by part of the state, and where it takes PC (the access
table R43 and rule R24 of spec/10_state.md). -/

namespace Sys2Proof.Machine

variable {i : Instr} {s t : State}

/-! ### Everything RET, CALL and `FX0A` can do (R102, R104, R162) -/

theorem execRet_cases (s : State) :
    (s.sp.val = 0 ∧ execRet s = .fault .stackUnderflow) ∨
    (0 < s.sp.val ∧ ∃ a t, s.pop = some (a, t) ∧ execRet s = .next (t.setPc (a.toNat + 2))) := by
  obtain ⟨hzero, hpop⟩ | ⟨hpos, hpop⟩ := s.pop_cases
  · exact .inl ⟨hzero, by rw [execRet, hpop]; rfl⟩
  · exact .inr ⟨hpos, _, _, hpop, by rw [execRet, hpop]⟩

theorem execCall_cases (nnn : Addr12) (s : State) :
    (s.sp.val = 16 ∧ execCall nnn s = .fault .stackOverflow) ∨
    (s.sp.val < 16 ∧ ∃ t, s.push s.pc = some t ∧ execCall nnn s = .next (t.setPc nnn.toNat)) := by
  obtain ⟨hfull, hpush⟩ | ⟨hroom, hpush⟩ := s.push_cases s.pc
  · exact .inl ⟨hfull, by rw [execCall, hpush]; rfl⟩
  · exact .inr ⟨hroom, _, hpush, by rw [execCall, hpush]⟩

theorem execLdVxK_cases (x : RegId) (s : State) :
    (s.keys = 0#16 ∧ execLdVxK x s = .next s) ∨
    ∃ k, s.keys ≠ 0#16 ∧ execLdVxK x s = writeReg x (BitVec.ofNat 8 k) s := by
  cases hkey : s.lowestKey with
  | none => exact .inl ⟨s.lowestKey_none_iff.mp hkey, by rw [execLdVxK, hkey]⟩
  | some k =>
    have hdown : s.keys ≠ 0#16 := fun hzero => by
      rw [s.lowestKey_none_iff.mpr hzero] at hkey; cases hkey
    exact .inr ⟨k, hdown, by rw [execLdVxK, hkey]; rfl⟩

/-- The entry popped is the newest one (R34). -/
theorem State.pop_top {a : Word} (h : s.pop = some (a, t)) :
    ∃ _h : 0 < s.sp.val, a = s.stack[s.sp.val - 1]'(by omega) := by
  obtain ⟨-, hnone⟩ | ⟨hpos, hsome⟩ := s.pop_cases
  · rw [hnone] at h; cases h
  · rw [hsome] at h; cases h; exact ⟨hpos, rfl⟩

/-! ### The same with the state after the instruction named -/

theorem exec_ret_next (h : exec .ret s = .next t) : ∃ a u, s.pop = some (a, u) ∧ t = u.setPc (a.toNat + 2) := by
  change execRet s = .next t at h
  obtain ⟨-, hfault⟩ | ⟨-, a, u, hpop, hnext⟩ := execRet_cases s
  · rw [hfault] at h; cases h
  · rw [hnext] at h; cases h; exact ⟨a, u, hpop, rfl⟩

theorem exec_call_next {nnn : Addr12} (h : exec (.call nnn) s = .next t) :
    ∃ u, s.push s.pc = some u ∧ t = u.setPc nnn.toNat := by
  change execCall nnn s = .next t at h
  obtain ⟨-, hfault⟩ | ⟨-, u, hpush, hnext⟩ := execCall_cases nnn s
  · rw [hfault] at h; cases h
  · rw [hnext] at h; cases h; exact ⟨u, hpush, rfl⟩

theorem exec_ldVxK_next {x : RegId} (h : exec (.ldVxK x) s = .next t) :
    (s.keys = 0#16 ∧ t = s) ∨ ∃ k, s.keys ≠ 0#16 ∧ t = (s.setReg x (BitVec.ofNat 8 k)).advance := by
  change execLdVxK x s = .next t at h
  obtain ⟨hzero, hnext⟩ | ⟨k, hdown, hnext⟩ := execLdVxK_cases x s
  · rw [hnext] at h; cases h; exact .inl ⟨hzero, rfl⟩
  · rw [hnext] at h; cases h; exact .inr ⟨k, hdown, rfl⟩

/-! ### The parts of the state an instruction may write -/

/-- `s` with those parts of `t` that the access table lets the instruction write, PC among them (R43). -/
def State.withWritten (i : Instr) (s t : State) : State :=
  match i with
  | .ldImm _ _ | .addImm _ _ | .ldReg _ _ | .orReg _ _ | .andReg _ _ | .xorReg _ _ | .addReg _ _ | .subReg _ _ | .shr _ _
  | .subnReg _ _ | .shl _ _ | .ldVxDt _ | .ldVxK _ | .loadRegs _ => { s with pc := t.pc, v := t.v }
  | .rnd _ _ => { s with pc := t.pc, v := t.v, draws := t.draws }
  | .drw _ _ _ => { s with pc := t.pc, v := t.v, fb := t.fb }
  | .cls => { s with pc := t.pc, fb := t.fb }
  | .ret | .call _ => { s with pc := t.pc, stack := t.stack, sp := t.sp }
  | .ldI _ | .addIVx _ | .ldFVx _ => { s with pc := t.pc, i := t.i }
  | .ldDtVx _ => { s with pc := t.pc, dt := t.dt }
  | .ldStVx _ => { s with pc := t.pc, st := t.st }
  | .ldBVx _ | .storeRegs _ => { s with pc := t.pc, mem := t.mem }
  | .sys _ | .jp _ | .jpV0 _ | .seImm _ _ | .sneImm _ _ | .seReg _ _ | .seRegAlias _ _ _ | .sneReg _ _ | .sneRegAlias _ _ _
  | .skp _ | .sknp _ | .nopAlu _ _ _ | .nopKey _ _ | .nopMisc _ _ => { s with pc := t.pc }

/-- An instruction that completes writes nothing but the parts `withWritten` takes from `t`. -/
theorem exec_eq_withWritten (h : exec i s = .next t) : t = s.withWritten i t := by
  cases i with
  | ret =>
    obtain ⟨a, u, hpop, rfl⟩ := exec_ret_next h
    rw [State.pop_frame hpop]; rfl
  | call nnn =>
    obtain ⟨u, hpush, rfl⟩ := exec_call_next h
    rw [State.push_frame hpush]; rfl
  | ldVxK x => obtain ⟨-, rfl⟩ | ⟨k, -, rfl⟩ := exec_ldVxK_next h <;> rfl
  | ldBVx x | storeRegs x => cases h; rw [State.writeBytes_frame]; rfl
  | loadRegs x => cases h; rw [State.loadRegsFrom_frame]; rfl
  | _ => cases h; rfl

/-! ### One frame for each part of the state -/

theorem exec_samePixels (hcls : i ≠ .cls) (hdrw : ∀ x y n, i ≠ .drw x y n) (h : exec i s = .next t) : SamePixels s t := by
  intro px py
  rw [exec_eq_withWritten h]
  cases i with
  | cls => exact absurd rfl hcls
  | drw x y n => exact absurd rfl (hdrw x y n)
  | _ => rfl

theorem exec_sameStack (hret : i ≠ .ret) (hcall : ∀ nnn, i ≠ .call nnn) (h : exec i s = .next t) : SameStack s t := by
  rw [exec_eq_withWritten h]
  cases i with
  | ret => exact absurd rfl hret
  | call nnn => exact absurd rfl (hcall nnn)
  | _ => exact ⟨rfl, rfl⟩

theorem exec_sameIndex (hldI : ∀ nnn, i ≠ .ldI nnn) (hadd : ∀ x, i ≠ .addIVx x ∧ i ≠ .ldFVx x) (h : exec i s = .next t) :
    t.i = s.i := by
  rw [exec_eq_withWritten h]
  cases i with
  | ldI nnn => exact absurd rfl (hldI nnn)
  | addIVx x => exact absurd rfl (hadd x).1
  | ldFVx x => exact absurd rfl (hadd x).2
  | _ => rfl

theorem exec_sameDelayTimer (hdt : ∀ x, i ≠ .ldDtVx x) (h : exec i s = .next t) : t.dt = s.dt := by
  rw [exec_eq_withWritten h]
  cases i with
  | ldDtVx x => exact absurd rfl (hdt x)
  | _ => rfl

theorem exec_sameSoundTimer (hst : ∀ x, i ≠ .ldStVx x) (h : exec i s = .next t) : t.st = s.st := by
  rw [exec_eq_withWritten h]
  cases i with
  | ldStVx x => exact absurd rfl (hst x)
  | _ => rfl

theorem exec_sameDraws (hrnd : ∀ x nn, i ≠ .rnd x nn) (h : exec i s = .next t) : t.draws = s.draws := by
  rw [exec_eq_withWritten h]
  cases i with
  | rnd x nn => exact absurd rfl (hrnd x nn)
  | _ => rfl

/-- No instruction writes what the host and the construction own (R38, R178, R7). -/
theorem exec_sameHostParts (h : exec i s = .next t) : t.keys = s.keys ∧ t.source = s.source ∧ t.font = s.font := by
  rw [exec_eq_withWritten h]
  cases i <;> exact ⟨rfl, rfl, rfl⟩

/-! ### Memory and registers -/

theorem decimalDigits_length (b : Byte) : (decimalDigits b).length = 3 := rfl

theorem State.regsUpTo_length (s : State) (x : RegId) : (s.regsUpTo x).length = x.toNat + 1 := by
  rw [State.regsUpTo, List.length_map, List.length_range]

theorem exec_sameMemoryOutside (h : exec i s = .next t) :
    SameMemoryOutside (storedBytes i s).1 (storedBytes i s).2 s t := by
  intro a ha
  cases i with
  | ldBVx x =>
    cases h
    exact State.writeBytes_readByte_other s _ a _ (by rw [decimalDigits_length]; exact ha)
  | storeRegs x =>
    cases h
    exact State.writeBytes_readByte_other s _ a _ (by rw [State.regsUpTo_length]; exact ha)
  | _ => rw [exec_eq_withWritten h]; rfl

theorem sameRegsBut_setReg (x : RegId) (b : Byte) (s : State) : SameRegsBut [x] s (s.setReg x b) := fun _ hr =>
  s.setReg_reg_other b (Ne.symm (List.ne_of_not_mem_cons hr))

theorem sameRegsBut_setRegFlag (x : RegId) (b flag : Byte) (s : State) : SameRegsBut [x, vf] s (s.setRegFlag x b flag) := by
  intro r hr
  simp only [List.mem_cons, List.not_mem_nil, or_false, not_or] at hr
  obtain ⟨hx, hvf⟩ := hr
  rw [State.setRegFlag_reg, if_neg hvf, if_neg (Ne.symm hx)]

theorem mem_regsThrough {x r : RegId} (h : r.toNat < x.toNat + 1) : r ∈ regsThrough x :=
  List.mem_map.mpr ⟨r.toNat, List.mem_range.mpr h, by rw [BitVec.ofNat_toNat, BitVec.setWidth_eq]⟩

theorem sameRegsBut_loadRegsFrom (x : RegId) (a : Nat) (s : State) :
    SameRegsBut (regsThrough x) s (s.loadRegsFrom a (x.toNat + 1)) := by
  intro r hr
  rw [State.loadRegsFrom_reg s a _ x.isLt, if_neg (mt mem_regsThrough hr)]

theorem exec_sameRegsBut (h : exec i s = .next t) : SameRegsBut (destRegs i) s t := by
  cases i with
  | ldImm _ _ | addImm _ _ | ldReg _ _ | orReg _ _ | andReg _ _ | xorReg _ _ | ldVxDt _ | rnd _ _ | drw _ _ _ =>
    cases h; exact sameRegsBut_setReg _ _ _
  | addReg _ _ | subReg _ _ | shr _ _ | subnReg _ _ | shl _ _ => cases h; exact sameRegsBut_setRegFlag _ _ _ _
  | ldVxK x =>
    obtain ⟨-, rfl⟩ | ⟨k, -, rfl⟩ := exec_ldVxK_next h
    · exact fun _ _ => rfl
    · exact sameRegsBut_setReg _ _ _
  | loadRegs x => cases h; exact sameRegsBut_loadRegsFrom _ _ _
  | _ => intro r _; rw [exec_eq_withWritten h]; rfl

/-! ### PC (R24, R25) -/

theorem State.writeBytes_pc (s : State) (a : Nat) (bs : List Byte) : (s.writeBytes a bs).pc = s.pc := by
  rw [State.writeBytes_frame]

theorem State.loadRegsFrom_pc (s : State) (a n : Nat) : (s.loadRegsFrom a n).pc = s.pc := by
  rw [State.loadRegsFrom_frame]

theorem State.skipIf_toNat_cases (s : State) (c : Bool) :
    (s.skipIf c).pc.toNat = (s.pc.toNat + 4) % 4096 ∨ (s.skipIf c).pc.toNat = (s.pc.toNat + 2) % 4096 := by
  rw [State.skipIf_toNat]
  cases c
  · exact .inr rfl
  · exact .inl rfl

/-- A 12-bit target is not changed by the reduction (R103). -/
theorem State.setPc_addr_toNat (s : State) (nnn : Addr12) : (s.setPc nnn.toNat).pc.toNat = nnn.toNat := by
  rw [State.setPc_toNat, Nat.mod_eq_of_lt nnn.isLt]

end Sys2Proof.Machine
end

section
/-! PROOFS. Flags, what instructions write, and the ways PC changes. -/

open Sys2Proof Sys2Proof.Machine

/-- Settles O50, by the rule that an instruction keeps the invariant, and the tick with it. -/
theorem stepKeepsInvariant : Obligations.StepKeepsInvariant := by
  unfold Obligations.StepKeepsInvariant
  exact fun _ _ => step_keeps_inv

/-- Settles O53: one frame for each part of the state. -/
theorem writesOnlyWhatTheTableGives : Obligations.WritesOnlyWhatTheTableGives := by
  unfold Obligations.WritesOnlyWhatTheTableGives
  intro i s t h
  obtain ⟨hkeys, hsource, hfont⟩ := exec_sameHostParts h
  exact ⟨exec_sameRegsBut h, exec_sameMemoryOutside h, fun ⟨hcls, hdrw⟩ => exec_samePixels hcls hdrw h,
    fun ⟨hret, hcall⟩ => exec_sameStack hret hcall h, fun hldI hadd => exec_sameIndex hldI hadd h,
    fun hdt => exec_sameDelayTimer hdt h, fun hst => exec_sameSoundTimer hst h, hkeys, hsource, hfont,
    fun hrnd => exec_sameDraws hrnd h⟩

/-- Settles O54: each instruction ends with `next`, a skip or an assignment to PC, and `FX0A` may wait. -/
theorem pcChangesOnlyInTheListedWays : Obligations.PcChangesOnlyInTheListedWays := by
  unfold Obligations.PcChangesOnlyInTheListedWays
  intro i s t h
  cases i with
  | seImm _ _ | sneImm _ _ | seReg _ _ | seRegAlias _ _ _ | sneReg _ _ | sneRegAlias _ _ _ | skp _ | sknp _ =>
    cases h; exact s.skipIf_toNat_cases _
  | jp nnn => cases h; exact s.setPc_addr_toNat nnn
  | jpV0 nnn => cases h; exact s.setPc_toNat _
  | call nnn =>
    obtain ⟨u, -, rfl⟩ := exec_call_next h
    exact u.setPc_addr_toNat nnn
  | ret =>
    obtain ⟨a, u, hpop, rfl⟩ := exec_ret_next h
    obtain ⟨hpos, rfl⟩ := State.pop_top hpop
    exact ⟨hpos, u.setPc_toNat _⟩
  | ldVxK x =>
    obtain ⟨hzero, rfl⟩ | ⟨k, hdown, rfl⟩ := exec_ldVxK_next h
    · exact (if_pos hzero).mpr rfl
    · exact (if_neg hdown).mpr (State.advance_toNat _)
  | ldBVx _ | storeRegs _ =>
    cases h
    exact (State.advance_toNat _).trans (by rw [State.writeBytes_pc])
  | loadRegs _ =>
    cases h
    exact (State.advance_toNat _).trans (by rw [State.loadRegsFrom_pc])
  | _ => cases h; exact State.advance_toNat _

end

section
/-! SUPPORT. PC and the live stack entries stay even (spec/10_state.md R26): the stack by a push and a pop, PC by the ways it
changes. -/

namespace Sys2Proof.Machine

variable {s t : State}

theorem State.EvenPc.tick (h : s.EvenPc) : s.tick.EvenPc := h

theorem liveEntries_of_sameStack (h : SameStack s t) : t.liveEntries = s.liveEntries := by
  obtain ⟨hstack, hsp⟩ := h
  rw [State.liveEntries, State.liveEntries, hstack, hsp]

/-- An instruction other than RET and CALL leaves the stack as it was, so only PC is in question. -/
theorem evenPc_of_exec {i : Instr} (hret : i ≠ .ret) (hcall : ∀ nnn, i ≠ .call nnn) (he : s.EvenPc)
    (h : exec i s = .next t) (hpc : t.pc.toNat % 2 = 0) : t.EvenPc :=
  ⟨hpc, by rw [liveEntries_of_sameStack (exec_sameStack hret hcall h)]; exact he.2⟩

/-- What a push of PC adds is even, and the target has to be (R104). -/
theorem evenPc_push_setPc (h : s.EvenPc) (ht : s.push s.pc = some t) {n : Nat} (hn : n % 2 = 0) : (t.setPc n).EvenPc := by
  obtain ⟨hpc, hlive⟩ := h
  refine ⟨by rw [State.setPc_toNat]; omega, fun w hw => ?_⟩
  change w ∈ t.liveEntries at hw
  rw [State.push_liveEntries ht, List.mem_append, List.mem_singleton] at hw
  obtain hw | rfl := hw
  · exact hlive w hw
  · exact hpc

/-- The entry popped was live, so PC is an even entry plus 2 (R102). -/
theorem evenPc_pop_setPc (h : s.EvenPc) {a : Word} (ht : s.pop = some (a, t)) : (t.setPc (a.toNat + 2)).EvenPc := by
  obtain ⟨-, hlive⟩ := h
  rw [State.pop_liveEntries ht] at hlive
  have htop : a.toNat % 2 = 0 := hlive a (List.mem_append_right _ (List.mem_singleton_self a))
  exact ⟨by rw [State.setPc_toNat]; omega, fun w hw => hlive w (List.mem_append_left _ hw)⟩

/-- R26 for an instruction: no jump or call of it goes to an odd target. -/
theorem exec_keeps_evenPc {i : Instr} (he : s.EvenPc) (h : exec i s = .next t)
    (htarget : ∀ nnn, i = .jp nnn ∨ i = .call nnn → nnn.toNat % 2 = 0)
    (htargetV0 : ∀ nnn, i = .jpV0 nnn → (nnn.toNat + (s.reg 0#4).toNat) % 2 = 0) : t.EvenPc := by
  have hpc := pcChangesOnlyInTheListedWays i s t h
  have heven : s.pc.toNat % 2 = 0 := he.1
  cases i with
  | ret =>
    obtain ⟨a, u, hpop, rfl⟩ := exec_ret_next h
    exact evenPc_pop_setPc he hpop
  | call nnn =>
    obtain ⟨u, hpush, rfl⟩ := exec_call_next h
    exact evenPc_push_setPc he hpush (htarget nnn (.inr rfl))
  | jp nnn =>
    have hn := htarget nnn (.inl rfl)
    exact evenPc_of_exec (by simp) (by simp) he h (by simp only at hpc; omega)
  | jpV0 nnn =>
    have hn := htargetV0 nnn rfl
    exact evenPc_of_exec (by simp) (by simp) he h (by simp only at hpc; omega)
  | ldVxK x =>
    refine evenPc_of_exec (by simp) (by simp) he h ?_
    by_cases hzero : s.keys = 0#16
    · rw [(if_pos hzero).mp hpc]; exact heven
    · have hnext := (if_neg hzero).mp hpc; omega
  | _ => exact evenPc_of_exec (by simp) (by simp) he h (by simp only at hpc; omega)

end Sys2Proof.Machine
end

section
/-! SUPPORT. An update `f` of the state that an instruction does not notice: executing after `f` is executing and then `f`. The
operations that run over a list are done here for every such `f`. -/

namespace Sys2Proof.Machine

/-- `f` applied to the state a result holds, if it holds one. -/
def mapNext (f : State → State) : Result → Result
  | .next t => .next (f t)
  | .fault e => .fault e
  | .refused r => .refused r

section
variable {f : State → State}

theorem State.writeBytes_comm (hwrite : ∀ s a b, (f s).writeByte a b = f (s.writeByte a b)) (s : State) (a : Nat)
    (bs : List Byte) : (f s).writeBytes a bs = f (s.writeBytes a bs) := by
  induction bs generalizing s a with
  | nil => rfl
  | cons b bs ih => rw [State.writeBytes, hwrite, ih]; rfl

theorem State.loadRegsFrom_comm (hread : ∀ s a, (f s).readByte a = s.readByte a)
    (hset : ∀ s x b, (f s).setReg x b = f (s.setReg x b)) (s : State) (a n : Nat) :
    (f s).loadRegsFrom a n = f (s.loadRegsFrom a n) := by
  induction n with
  | zero => rfl
  | succ n ih => rw [State.loadRegsFrom, ih, hread, hset]; rfl

theorem execLdVxK_comm (hkey : ∀ s, (f s).lowestKey = s.lowestKey)
    (hset : ∀ s x b, ((f s).setReg x b).advance = f (s.setReg x b).advance) (x : RegId) (s : State) :
    execLdVxK x (f s) = mapNext f (execLdVxK x s) := by
  rw [execLdVxK, execLdVxK, hkey]
  cases s.lowestKey with
  | none => rfl
  | some k => exact congrArg Host.Outcome.next (hset s x _)

end

/-! ### Another sound timer (R30) -/

theorem execRet_setSt (b : Byte) (s : State) : execRet (s.setSt b) = mapNext (fun t => t.setSt b) (execRet s) := by
  have hpop : (s.setSt b).pop = s.pop.map (fun p => (p.1, p.2.setSt b)) := by
    rw [State.pop, State.pop, apply_dite (Option.map _)]; rfl
  rw [execRet, execRet, hpop]
  cases s.pop <;> rfl

theorem execCall_setSt (nnn : Addr12) (b : Byte) (s : State) :
    execCall nnn (s.setSt b) = mapNext (fun t => t.setSt b) (execCall nnn s) := by
  have hpush : (s.setSt b).push s.pc = (s.push s.pc).map (fun t => t.setSt b) := by
    rw [State.push, State.push, apply_dite (Option.map _)]; rfl
  rw [execCall, execCall, State.setSt_pc, hpush]
  cases s.push s.pc <;> rfl

theorem exec_setSt {i : Instr} (hst : ∀ x, i ≠ .ldStVx x) (b : Byte) (s : State) :
    exec i (s.setSt b) = mapNext (fun t => t.setSt b) (exec i s) := by
  cases i with
  | ldStVx x => exact absurd rfl (hst x)
  | ret => exact execRet_setSt b s
  | call nnn => exact execCall_setSt nnn b s
  | ldVxK x => exact execLdVxK_comm (f := fun t => t.setSt b) (fun _ => rfl) (fun _ _ _ => rfl) x s
  | ldBVx _ | storeRegs _ =>
    exact congrArg (fun t => Host.Outcome.next t.advance)
      (State.writeBytes_comm (f := fun t => t.setSt b) (fun _ _ _ => rfl) s _ _)
  | loadRegs _ =>
    exact congrArg (fun t => Host.Outcome.next t.advance)
      (State.loadRegsFrom_comm (f := fun t => t.setSt b) (fun _ _ => rfl) (fun _ _ _ => rfl) s _ _)
  | _ => rfl

/-! ### Another stack (R35) -/

/-- The state with other stack entries, the depth as it was. -/
def State.withStack (stack : Vector Word 16) (s : State) : State := { s with stack := stack }

theorem exec_withStack {i : Instr} (hret : i ≠ .ret) (hcall : ∀ nnn, i ≠ .call nnn) (stack : Vector Word 16) (s : State) :
    exec i (s.withStack stack) = mapNext (State.withStack stack) (exec i s) := by
  cases i with
  | ret => exact absurd rfl hret
  | call nnn => exact absurd rfl (hcall nnn)
  | ldVxK x => exact execLdVxK_comm (f := State.withStack stack) (fun _ => rfl) (fun _ _ _ => rfl) x s
  | ldBVx _ | storeRegs _ =>
    exact congrArg (fun t => Host.Outcome.next t.advance)
      (State.writeBytes_comm (f := State.withStack stack) (fun _ _ _ => rfl) s _ _)
  | loadRegs _ =>
    exact congrArg (fun t => Host.Outcome.next t.advance)
      (State.loadRegsFrom_comm (f := State.withStack stack) (fun _ _ => rfl) (fun _ _ _ => rfl) s _ _)
  | _ => rfl

end Sys2Proof.Machine
end

section
/-! SUPPORT. Stack entries at SP and above are not observable (spec/10_state.md R35): states that agree but for those give
results that agree but for those. -/

namespace Sys2Proof.Machine

variable {s s' : State}

/-- `s'` is `s` but for stack entries at SP and above. -/
def SameButDeadEntries (s s' : State) : Prop := s' = { s with stack := s'.stack } ∧ s'.liveEntries = s.liveEntries

/-- Two results are the same fault, or states that agree but for dead entries. -/
inductive ResultsAgree : Result → Result → Prop
  | next {t t' : State} (h : SameButDeadEntries t t') : ResultsAgree (.next t) (.next t')
  | fault (f : Fault) : ResultsAgree (.fault f) (.fault f)

theorem SameButDeadEntries.sp (h : SameButDeadEntries s s') : s'.sp = s.sp := by rw [h.1]

theorem SameButDeadEntries.pc (h : SameButDeadEntries s s') : s'.pc = s.pc := by rw [h.1]

theorem SameButDeadEntries.fetchWord (h : SameButDeadEntries s s') : s'.fetchWord = s.fetchWord := by rw [h.1]; rfl

theorem SameButDeadEntries.tick (h : SameButDeadEntries s s') : SameButDeadEntries s.tick s'.tick := by
  obtain ⟨heq, hlive⟩ := h
  exact ⟨by rw [heq]; rfl, hlive⟩

/-- Only RET and CALL can fault (R95). -/
theorem exec_completes {i : Instr} (hret : i ≠ .ret) (hcall : ∀ nnn, i ≠ .call nnn) (s : State) : ∃ t, exec i s = .next t := by
  cases i with
  | ret => exact absurd rfl hret
  | call nnn => exact absurd rfl (hcall nnn)
  | ldVxK x =>
    obtain ⟨-, hnext⟩ | ⟨k, -, hnext⟩ := execLdVxK_cases x s
    · exact ⟨_, hnext⟩
    · exact ⟨_, hnext⟩
  | _ => exact ⟨_, rfl⟩

/-- An instruction that neither reads nor writes the stack. -/
theorem exec_agree_of_sameStack {i : Instr} (hret : i ≠ .ret) (hcall : ∀ nnn, i ≠ .call nnn) (h : SameButDeadEntries s s') :
    ResultsAgree (exec i s) (exec i s') := by
  obtain ⟨heq, hlive⟩ := h
  obtain ⟨t, ht⟩ := exec_completes hret hcall s
  obtain ⟨hstack, hsp⟩ := exec_sameStack hret hcall ht
  have hagree : SameButDeadEntries t (t.withStack s'.stack) := by
    refine ⟨rfl, ?_⟩
    change s'.stack.toList.take t.sp.val = t.stack.toList.take t.sp.val
    rw [heq] at hlive
    rw [hsp, hstack]; exact hlive
  have ht' : exec i s' = .next (t.withStack s'.stack) := by
    rw [heq]; exact (exec_withStack hret hcall s'.stack s).trans (by rw [ht]; rfl)
  rw [ht, ht']
  exact .next hagree

theorem SameButDeadEntries.setPc (h : SameButDeadEntries s s') (n : Nat) : SameButDeadEntries (s.setPc n) (s'.setPc n) := by
  obtain ⟨heq, hlive⟩ := h
  exact ⟨by rw [heq]; rfl, hlive⟩

theorem State.liveEntries_length (s : State) : s.liveEntries.length = s.sp.val := by
  rw [State.liveEntries, List.length_take, Vector.length_toList, Nat.min_eq_left (by omega)]

/-- States that come from `s` and `s'` by a change of the stack alone agree as soon as their live entries do. -/
theorem sameButDeadEntries_of_stackOnly {t t' : State} (h : SameButDeadEntries s s')
    (ht : t = { s with stack := t.stack, sp := t.sp }) (ht' : t' = { s' with stack := t'.stack, sp := t'.sp }) (hlive : t'.liveEntries = t.liveEntries) :
    SameButDeadEntries t t' := by
  have hsp : t'.sp = t.sp := Fin.ext (by rw [← State.liveEntries_length, hlive, State.liveEntries_length])
  refine ⟨?_, hlive⟩
  calc
    t' = { s' with stack := t'.stack, sp := t'.sp } := ht'
    _ = { s with stack := t'.stack, sp := t.sp } := by rw [h.1, hsp]
    _ = { t with stack := t'.stack } := by rw [ht]

/-- Both return to the same address, since the newest live entry is the same. -/
theorem execRet_agree (h : SameButDeadEntries s s') : ResultsAgree (execRet s) (execRet s') := by
  have hsp : s'.sp = s.sp := h.sp
  obtain ⟨hzero, hfault⟩ | ⟨hpos, a, t, hpop, hnext⟩ := execRet_cases s
  · obtain ⟨-, hfault'⟩ | ⟨hpos', -⟩ := execRet_cases s'
    · rw [hfault, hfault']; exact .fault _
    · omega
  · obtain ⟨hzero', -⟩ | ⟨-, a', t', hpop', hnext'⟩ := execRet_cases s'
    · omega
    · have hlive : t'.liveEntries ++ [a'] = t.liveEntries ++ [a] := by
        rw [← State.pop_liveEntries hpop, ← State.pop_liveEntries hpop', h.2]
      obtain ⟨hrest, htop⟩ := List.append_inj' hlive rfl
      obtain rfl : a' = a := List.singleton_inj.mp htop
      have ht : SameButDeadEntries t t' := sameButDeadEntries_of_stackOnly h (by rw [State.pop_frame hpop])
        (by rw [State.pop_frame hpop']) hrest
      rw [hnext, hnext']; exact .next (ht.setPc _)

/-- Both push the same PC on the same live entries. -/
theorem execCall_agree (nnn : Addr12) (h : SameButDeadEntries s s') :
    ResultsAgree (execCall nnn s) (execCall nnn s') := by
  have hsp : s'.sp = s.sp := h.sp
  obtain ⟨hfull, hfault⟩ | ⟨hroom, t, hpush, hnext⟩ := execCall_cases nnn s
  · obtain ⟨-, hfault'⟩ | ⟨hroom', -⟩ := execCall_cases nnn s'
    · rw [hfault, hfault']; exact .fault _
    · omega
  · obtain ⟨hfull', -⟩ | ⟨-, t', hpush', hnext'⟩ := execCall_cases nnn s'
    · omega
    · have hlive : t'.liveEntries = t.liveEntries := by
        rw [State.push_liveEntries hpush', State.push_liveEntries hpush, h.2, h.pc]
      have ht : SameButDeadEntries t t' := sameButDeadEntries_of_stackOnly h (State.push_frame hpush)
        (State.push_frame hpush') hlive
      rw [hnext, hnext']; exact .next (ht.setPc _)

theorem exec_agree (i : Instr) (h : SameButDeadEntries s s') : ResultsAgree (exec i s) (exec i s') := by
  by_cases hret : i = .ret
  · subst hret; exact execRet_agree h
  · by_cases hcall : ∃ nnn, i = .call nnn
    · obtain ⟨nnn, rfl⟩ := hcall; exact execCall_agree nnn h
    · exact exec_agree_of_sameStack hret (fun nnn hi => hcall ⟨nnn, hi⟩) h

theorem finishStep_agree {r r' : Result} (h : ResultsAgree r r') : ResultsAgree (finishStep r) (finishStep r') := by
  cases h with
  | next h => exact .next h.tick
  | fault f => exact .fault f

theorem step_agree (h : SameButDeadEntries s s') : ResultsAgree (step s) (step s') := by
  rw [step, step, h.fetchWord]
  exact finishStep_agree (exec_agree _ h)

end Sys2Proof.Machine
end

section
/-! SUPPORT. The flag that a flag writer leaves (spec/10_state.md R22), and what a byte of memory reads as after reset (R42). -/

namespace Sys2Proof.Machine

theorem flagByte_toNat_cases (c : Bool) : (flagByte c).toNat = 0 ∨ (flagByte c).toNat = 1 := by
  cases c
  · exact .inl rfl
  · exact .inr rfl

/-- The flag is written last, so it is what VF holds, whatever the destination (R23). -/
theorem writeRegFlag_vf_cases (x : RegId) (b : Byte) (c : Bool) (s : State) :
    ∃ t, writeRegFlag x b (flagByte c) s = .next t ∧ ((t.reg vf).toNat = 0 ∨ (t.reg vf).toNat = 1) :=
  ⟨_, rfl, by rw [State.advance_reg, State.setRegFlag_reg, if_pos rfl]; exact flagByte_toNat_cases c⟩

theorem unlistedByte_outside (font : Font) {a : Nat} (h : a < 0x050 ∨ 0x09F < a) : unlistedByte font a = 0#8 :=
  dif_neg (by simp only [Config.fontBase, Config.fontBytes]; omega)

theorem unlistedByte_font (font : Font) {k : Nat} (hk : k < 80) : unlistedByte font (0x050 + k) = font[k] := by
  rw [unlistedByte, dif_pos (by simp only [Config.fontBase, Config.fontBytes]; omega)]
  simp only [Config.fontBase, Nat.add_sub_cancel_left]

/-- Reset leaves no byte listed (R42). -/
theorem resetCore_readByte (s : State) {a : Nat} (ha : a < 4096) : (resetCore s).readByte a = unlistedByte s.font a := by
  change unlistedByte s.font (a % 4096) = _
  rw [Nat.mod_eq_of_lt ha]

theorem resetCore_reg (s : State) (r : RegId) : (resetCore s).reg r = 0#8 := Vector.getElem_replicate r.isLt

theorem resetCore_pixel (s : State) (px py : Nat) : (resetCore s).pixel px py = false := Framebuffer.pixel_clear px py

end Sys2Proof.Machine
end

section
/-! PROOFS. Flags, evenness of PC, what is not read, and reset. -/

open Sys2Proof Sys2Proof.Machine

/-- Settles O26: five instructions write VF by `writeRegFlag`, and `DXYN` writes the collision. -/
theorem flagsAreZeroOrOne : Obligations.FlagsAreZeroOrOne := by
  unfold Obligations.FlagsAreZeroOrOne
  intro i s h
  cases i with
  | addReg _ _ | subReg _ _ | shr _ _ | subnReg _ _ | shl _ _ => exact writeRegFlag_vf_cases _ _ _ s
  | drw x y n =>
    refine ⟨_, rfl, ?_⟩
    rw [State.advance_reg, State.setReg_reg_same]
    exact flagByte_toNat_cases _
  | _ => cases h

/-- Settles O52: the instruction keeps PC and the live entries even, and the tick touches neither. -/
theorem pcStaysEvenWithoutOddTargets : Obligations.PcStaysEvenWithoutOddTargets := by
  unfold Obligations.PcStaysEvenWithoutOddTargets
  intro s t he ht htarget htargetV0
  obtain ⟨u, hu, rfl⟩ := (finishStep_next_iff _ t).mp ht
  exact (exec_keeps_evenPc he hu htarget htargetV0).tick

/-- Settles O56: replacing ST before an instruction other than `FX18` is replacing it after. -/
theorem soundTimerIsNeverRead : Obligations.SoundTimerIsNeverRead := by
  unfold Obligations.SoundTimerIsNeverRead
  intro i s b
  change exec i (s.setSt b) = _
  cases i with
  | ldStVx x => rfl
  | _ =>
    rw [exec_setSt (by simp)]
    cases exec _ s <;> rfl

/-- Settles O57: the two steps give results that agree but for dead entries. -/
theorem deadStackEntriesAreNotObservable : Obligations.DeadStackEntriesAreNotObservable := by
  unfold Obligations.DeadStackEntriesAreNotObservable
  intro s s' heq hlive
  have h : ResultsAgree (step s) (step s') := step_agree ⟨heq, hlive⟩
  generalize step s = r, step s' = r' at h
  cases h with
  | next h => exact h
  | fault f => rfl

/-- Settles O44, item by item of R42's table. -/
theorem resetLeavesTheTable : Obligations.ResetLeavesTheTable := by
  unfold Obligations.ResetLeavesTheTable
  intro s font source
  have hzero : ∀ a, a < 0x050 ∨ 0x09F < a ∧ a < 4096 → (resetCore s).readByte a = 0#8 := fun a ha => by
    rw [resetCore_readByte s (by omega), unlistedByte_outside s.font (by omega)]
  have hfont : ∀ (k : Nat) (_ : k < 80), (resetCore s).readByte (0x050 + k) = s.font[k] := fun k hk => by
    rw [resetCore_readByte s (by omega), unlistedByte_font s.font hk]
  exact ⟨hzero, hfont, resetCore_reg s, rfl, rfl, rfl, fun k hk => Vector.getElem_replicate hk, rfl, rfl, resetCore_pixel s,
    ⟨rfl, rfl, rfl, rfl⟩, rfl, rfl, rfl, rfl⟩

/-- Settles O49: a constructed state is its own reset. -/
theorem resetMeetsInvariant : Obligations.ResetMeetsInvariant := by
  unfold Obligations.ResetMeetsInvariant
  exact ⟨inv_resetCore State.reset, inv_resetCore, fun font source => inv_resetCore (State.construct font source)⟩

end

section
/-! SUPPORT. What memory reads as after `FX55` (spec/43_index_memory.md R144), at any address equal modulo 4096 to a stored one
(spec/20_memory.md R51). -/

namespace Sys2Proof.Machine

theorem State.readByte_congr (s : State) {a b : Nat} (h : a % 4096 = b % 4096) : s.readByte a = s.readByte b :=
  congrArg (s.mem.read s.font) h

theorem State.regsUpTo_getElem (s : State) (x r : RegId) (h : r.toNat < (s.regsUpTo x).length) :
    (s.regsUpTo x)[r.toNat] = s.reg r := by
  simp only [State.regsUpTo, List.getElem_map, List.getElem_range, BitVec.ofNat_toNat, BitVec.setWidth_eq]

/-- `FX55` leaves `V[r]` at element `r` of the transfer; the sixteen bytes at most never meet themselves. -/
theorem exec_storeRegs_readByte {x r : RegId} {s t : State} (h : exec (.storeRegs x) s = .next t) (hr : r.toNat ≤ x.toNat) :
    t.readByte (s.effAddr r.toNat) = s.reg r := by
  cases h
  have hlen := s.regsUpTo_length x
  have hread := s.writeBytes_readByte_written (s.effAddr 0) r.toNat (s.regsUpTo x) (by omega) (by omega)
  exact hread.trans (s.regsUpTo_getElem x r _)

end Sys2Proof.Machine
end

section
/-! PROOFS. Memory: what a read and a fetch return after a write. -/

open Sys2Proof Sys2Proof.Machine

/-- Settles O34, by the spec lemma of `writeByte`; the second clause is its case of one address. -/
theorem readReturnsLastWrite : Obligations.ReadReturnsLastWrite := by
  unfold Obligations.ReadReturnsLastWrite
  exact fun s a b v w => ⟨s.writeByte_readByte a b v, ((s.writeByte a v).writeByte_readByte a a w).trans (if_pos rfl)⟩

/-- Settles O35: the new PC and PC + 1 are, modulo 4096, where `FX55` has stored V0 and V1. -/
theorem storeIsSeenByNextFetch : Obligations.StoreIsSeenByNextFetch := by
  unfold Obligations.StoreIsSeenByNextFetch
  intro x s t h hx hpc
  have hhi : t.readByte t.pc.toNat = s.reg 0#4 :=
    (t.readByte_congr (b := s.effAddr 0) (by simp only [State.effAddr]; omega)).trans
      (exec_storeRegs_readByte (r := 0#4) h (Nat.zero_le _))
  have hlo : t.readByte (t.pc.toNat + 1) = s.reg 1#4 :=
    (t.readByte_congr (b := s.effAddr 1) (by simp only [State.effAddr]; omega)).trans
      (exec_storeRegs_readByte (r := 1#4) h hx)
  rw [State.fetchWord, hhi, hlo, wordOfBytes]

end

section
/-! SUPPORT. A word as its fields put together, what the keyed families decode to, and that the instruction decoded stands for
the word (spec/30_encoding.md R71, R72, R74). -/

namespace Sys2Proof

/-! ### A word is its fields put together (R71) -/

section
variable {w : Word} {t : Nibble}

/-- The decoder's test of the family, as an equation of nibbles. -/
theorem fieldT_eq_ofNat {k : Nat} (h : (fieldT w).toNat = k) : fieldT w = BitVec.ofNat 4 k := by
  rw [← h, BitVec.ofNat_toNat, BitVec.setWidth_eq]

theorem addr_fields (ht : fieldT w = t) : t ++ fieldNNN w = w := by
  subst ht
  exact (BitVec.extractLsb'_append_extractLsb'_eq_extractLsb' rfl).trans BitVec.extractLsb'_eq_self

theorem fieldT_append_fieldX (w : Word) : fieldT w ++ fieldX w = highByte w :=
  BitVec.extractLsb'_append_extractLsb'_eq_extractLsb' rfl

theorem imm_fields (ht : fieldT w = t) : t ++ fieldX w ++ fieldNN w = w := by
  subst ht
  rw [fieldT_append_fieldX]
  exact (BitVec.extractLsb'_append_extractLsb'_eq_extractLsb' rfl).trans BitVec.extractLsb'_eq_self

theorem fieldT_append_fieldX_append_fieldY (w : Word) : fieldT w ++ fieldX w ++ fieldY w = w.extractLsb' 4 12 := by
  rw [fieldT_append_fieldX]
  exact BitVec.extractLsb'_append_extractLsb'_eq_extractLsb' rfl

theorem reg_fields {n : Nibble} (ht : fieldT w = t) (hn : fieldN w = n) : t ++ fieldX w ++ fieldY w ++ n = w := by
  subst ht hn
  rw [fieldT_append_fieldX_append_fieldY]
  exact (BitVec.extractLsb'_append_extractLsb'_eq_extractLsb' rfl).trans BitVec.extractLsb'_eq_self

end

/-! ### Which catch-all instructions are well formed -/

theorem wellFormed_sys {nnn : Addr12} : (Instr.sys nnn).WellFormed ↔ nnn ≠ 0x0E0#12 ∧ nnn ≠ 0x0EE#12 := by
  rw [Instr.WellFormed, Instr.wf, Bool.and_eq_true, bne_iff_ne, bne_iff_ne]

theorem wellFormed_seRegAlias {x y : RegId} {n : Nibble} : (Instr.seRegAlias x y n).WellFormed ↔ n ≠ 0#4 := bne_iff_ne

theorem wellFormed_sneRegAlias {x y : RegId} {n : Nibble} : (Instr.sneRegAlias x y n).WellFormed ↔ n ≠ 0#4 := bne_iff_ne

theorem wellFormed_nopAlu {x y : RegId} {n : Nibble} : (Instr.nopAlu x y n).WellFormed ↔ n ∈ unmatchedAluNibbles :=
  List.contains_iff_mem

theorem wellFormed_nopKey {x : RegId} {nn : Byte} : (Instr.nopKey x nn).WellFormed ↔ nn ∉ keyOpcodes := by
  rw [Instr.WellFormed, Instr.wf, Bool.not_eq_true', ← Bool.not_eq_true, List.contains_iff_mem]

theorem wellFormed_nopMisc {x : RegId} {nn : Byte} : (Instr.nopMisc x nn).WellFormed ↔ nn ∉ miscOpcodes := by
  rw [Instr.WellFormed, Instr.wf, Bool.not_eq_true', ← Bool.not_eq_true, List.contains_iff_mem]

/-! ### What the keyed families decode to (R72) -/

theorem decode_systemWord (nnn : Addr12) : decode (0x0#4 ++ nnn) = decodeSystem (0x0#4 ++ nnn) := by simp [decode]

theorem decode_aluWord (x y : RegId) (n : Nibble) : decode (0x8#4 ++ x ++ y ++ n) = decodeAlu x y n := by simp [decode]

theorem decode_keyWord (x : RegId) (nn : Byte) : decode (0xE#4 ++ x ++ nn) = decodeKey x nn := by simp [decode]

theorem decode_miscWord (x : RegId) (nn : Byte) : decode (0xF#4 ++ x ++ nn) = decodeMisc x nn := by simp [decode]

theorem decodeSystem_unmatched {w : Word} (h : (Instr.sys (fieldNNN w)).WellFormed) :
    decodeSystem w = .sys (fieldNNN w) := by
  obtain ⟨hcls, hret⟩ := wellFormed_sys.mp h
  have hne : ∀ k : Addr12, fieldNNN w ≠ k → w ≠ 0x0#4 ++ k := fun k hk hw => hk (by rw [hw, fieldNNN_addr])
  exact (if_neg (hne _ hcls)).trans (if_neg (hne _ hret))

theorem decodeAlu_unmatched {x y : RegId} {n : Nibble} (h : n ∈ unmatchedAluNibbles) : decodeAlu x y n = .nopAlu x y n := by
  simp only [unmatchedAluNibbles, List.mem_cons, List.not_mem_nil, or_false] at h
  obtain rfl | rfl | rfl | rfl | rfl | rfl | rfl := h <;> rfl

/-- The low nibbles of the nine matched rows of family 8, as `keyOpcodes` and `miscOpcodes` list the low bytes of E and F. -/
def aluOpcodes : List Nibble := [0x0#4, 0x1#4, 0x2#4, 0x3#4, 0x4#4, 0x5#4, 0x6#4, 0x7#4, 0xE#4]

theorem mem_aluOpcodes_or_unmatched : ∀ n : Nibble, n ∈ aluOpcodes ∨ n ∈ unmatchedAluNibbles := by decide

theorem decodeKey_unmatched {x : RegId} {nn : Byte} (h : nn ∉ keyOpcodes) : decodeKey x nn = .nopKey x nn := by
  simp only [keyOpcodes, List.mem_cons, List.not_mem_nil, or_false, not_or] at h
  simp only [decodeKey, h, if_false]

theorem decodeMisc_unmatched {x : RegId} {nn : Byte} (h : nn ∉ miscOpcodes) : decodeMisc x nn = .nopMisc x nn := by
  simp only [miscOpcodes, List.mem_cons, List.not_mem_nil, or_false, not_or] at h
  simp only [decodeMisc, h, if_false]

/-! ### The instruction decoded stands for the word -/

/-- `i` is well formed and its word is `w`. -/
def StandsFor (i : Instr) (w : Word) : Prop := i.WellFormed ∧ encode i = w

theorem decodeSystem_standsFor {w : Word} (ht : fieldT w = 0x0#4) : StandsFor (decodeSystem w) w := by
  rw [← addr_fields ht]
  by_cases hcls : fieldNNN w = 0x0E0#12
  · rw [hcls]; exact ⟨rfl, rfl⟩
  by_cases hret : fieldNNN w = 0x0EE#12
  · rw [hret]; exact ⟨rfl, rfl⟩
  have hwf : (Instr.sys (fieldNNN w)).WellFormed := wellFormed_sys.mpr ⟨hcls, hret⟩
  rw [addr_fields ht, decodeSystem_unmatched hwf]
  exact ⟨hwf, addr_fields ht⟩

theorem decodeAlu_standsFor (x y : RegId) (n : Nibble) : StandsFor (decodeAlu x y n) (0x8#4 ++ x ++ y ++ n) := by
  obtain h | h := mem_aluOpcodes_or_unmatched n
  · simp only [aluOpcodes, List.mem_cons, List.not_mem_nil, or_false] at h
    obtain rfl | rfl | rfl | rfl | rfl | rfl | rfl | rfl | rfl := h <;> exact ⟨rfl, rfl⟩
  · rw [decodeAlu_unmatched h]; exact ⟨wellFormed_nopAlu.mpr h, rfl⟩

theorem decodeKey_standsFor (x : RegId) (nn : Byte) : StandsFor (decodeKey x nn) (0xE#4 ++ x ++ nn) := by
  by_cases h : nn ∈ keyOpcodes
  · simp only [keyOpcodes, List.mem_cons, List.not_mem_nil, or_false] at h
    obtain rfl | rfl := h <;> exact ⟨rfl, rfl⟩
  · rw [decodeKey_unmatched h]; exact ⟨wellFormed_nopKey.mpr h, rfl⟩

theorem decodeMisc_standsFor (x : RegId) (nn : Byte) : StandsFor (decodeMisc x nn) (0xF#4 ++ x ++ nn) := by
  by_cases h : nn ∈ miscOpcodes
  · simp only [miscOpcodes, List.mem_cons, List.not_mem_nil, or_false] at h
    obtain rfl | rfl | rfl | rfl | rfl | rfl | rfl | rfl | rfl := h <;> exact ⟨rfl, rfl⟩
  · rw [decodeMisc_unmatched h]; exact ⟨wellFormed_nopMisc.mpr h, rfl⟩

/-- The instruction a word decodes to stands for the word, branch by branch of the decoder. -/
theorem decode_standsFor (w : Word) : StandsFor (decode w) w := by
  fun_cases decode w with
  | case1 ht => exact decodeSystem_standsFor (fieldT_eq_ofNat ht)
  -- the families of shape ADDR, then REGIMM, REGREG (families 5 and 9, two rows each) and REGREGN
  | case2 ht | case3 ht | case13 ht | case14 ht => exact ⟨rfl, addr_fields (fieldT_eq_ofNat ht)⟩
  | case4 ht | case5 ht | case8 ht | case9 ht | case15 ht => exact ⟨rfl, imm_fields (fieldT_eq_ofNat ht)⟩
  | case6 ht hn | case11 ht hn => exact ⟨rfl, reg_fields (fieldT_eq_ofNat ht) hn⟩
  | case7 ht hn => exact ⟨wellFormed_seRegAlias.mpr hn, reg_fields (fieldT_eq_ofNat ht) rfl⟩
  | case12 ht hn => exact ⟨wellFormed_sneRegAlias.mpr hn, reg_fields (fieldT_eq_ofNat ht) rfl⟩
  | case16 ht => exact ⟨rfl, reg_fields (fieldT_eq_ofNat ht) rfl⟩
  -- families 8, E and F have a decoder of their own
  | case10 ht =>
    have h := decodeAlu_standsFor (fieldX w) (fieldY w) (fieldN w)
    rwa [reg_fields (fieldT_eq_ofNat ht) rfl] at h
  | case17 ht =>
    have h := decodeKey_standsFor (fieldX w) (fieldNN w)
    rwa [imm_fields (fieldT_eq_ofNat ht)] at h
  | case18 =>
    have ht : (fieldT w).toNat = 0xF := by have := (fieldT w).isLt; simp only [imp_false] at *; omega
    have h := decodeMisc_standsFor (fieldX w) (fieldNN w)
    rwa [imm_fields (fieldT_eq_ofNat ht)] at h

theorem decode_encode {i : Instr} (h : i.WellFormed) : decode (encode i) = i := by
  cases i with
  | cls | ret => rfl
  | sys nnn =>
    rw [encode, decode_systemWord, decodeSystem_unmatched (by rwa [fieldNNN_addr]), fieldNNN_addr]
  | jp _ | call _ | ldI _ | jpV0 _ => simp [encode, decode]
  | seImm _ _ | sneImm _ _ | ldImm _ _ | addImm _ _ | rnd _ _ => simp [encode, decode]
  | seReg _ _ | sneReg _ _ | drw _ _ _ => simp [encode, decode]
  | seRegAlias _ _ _ => simp [encode, decode, wellFormed_seRegAlias.mp h]
  | sneRegAlias _ _ _ => simp [encode, decode, wellFormed_sneRegAlias.mp h]
  | ldReg x y | orReg x y | andReg x y | xorReg x y | addReg x y | subReg x y | shr x y | subnReg x y | shl x y =>
    exact decode_aluWord x y _
  | nopAlu x y n => exact (decode_aluWord x y n).trans (decodeAlu_unmatched (wellFormed_nopAlu.mp h))
  | skp x | sknp x => exact decode_keyWord x _
  | nopKey x nn => exact (decode_keyWord x nn).trans (decodeKey_unmatched (wellFormed_nopKey.mp h))
  | ldVxDt x | ldVxK x | ldDtVx x | ldStVx x | addIVx x | ldFVx x | ldBVx x | storeRegs x | loadRegs x =>
    exact decode_miscWord x _
  | nopMisc x nn => exact (decode_miscWord x nn).trans (decodeMisc_unmatched (wellFormed_nopMisc.mp h))

end Sys2Proof
end

section
/-! SUPPORT. The decode table searched from top to bottom (spec/30_encoding.md R73): a row accepts words of its own family only,
so the search is one through the family's rows, and there a row is taken by its key or, if it is the last, by every word. -/

namespace Sys2Proof

/-- What the first of the rows to accept the word reads from it. -/
def firstBuilt (rows : List OpcodeRow) (w : Word) : Option Instr :=
  (rows.find? (fun r => r.accepts w)).map (fun r => r.build w)

/-- The rows of one family, in the table's order. -/
def familyRows (t : Nibble) : List OpcodeRow := opcodeTable.filter (fun r => fieldT r.pattern == t)

/-! ### From the table to the family -/

theorem fieldT_mask : ∀ r ∈ opcodeTable, fieldT r.mask = 0xF#4 := by decide

/-- Every mask keeps the whole top nibble. -/
theorem fieldT_pattern_of_accepts {r : OpcodeRow} {w : Word} (hr : r ∈ opcodeTable) (h : r.accepts w = true) :
    fieldT r.pattern = fieldT w := by
  have hmask : fieldT r.mask = 0xF#4 := fieldT_mask r hr
  have hpat : (w &&& r.mask) = r.pattern := beq_iff_eq.mp h
  calc
    fieldT r.pattern = fieldT w &&& fieldT r.mask := by rw [← hpat]; exact BitVec.extractLsb'_and
    _ = fieldT w := by rw [hmask, and_nibble_ones]

section
variable {w : Word} {t : Nibble} {r r' : OpcodeRow} {rows : List OpcodeRow}

theorem firstBuilt_opcodeTable (ht : fieldT w = t) : firstBuilt opcodeTable w = firstBuilt (familyRows t) w := by
  have hfamily : ∀ r ∈ opcodeTable, r.accepts w = (r.accepts w && fieldT r.pattern == t) := fun r hr => by
    cases h : r.accepts w with
    | false => rfl
    | true => rw [fieldT_pattern_of_accepts hr h, ht, Bool.true_and, beq_self_eq_true]
  rw [firstBuilt, firstBuilt, familyRows, ← List.head?_filter, ← List.head?_filter, List.filter_filter,
    ← List.filter_congr hfamily]

/-! ### One row of a family -/

theorem firstBuilt_cons : firstBuilt (r :: rows) w =
    if (w &&& r.mask) = r.pattern then some (r.build w) else firstBuilt rows w := by
  by_cases h : (w &&& r.mask) = r.pattern
  · simp [firstBuilt, OpcodeRow.accepts, h]
  · simp [firstBuilt, OpcodeRow.accepts, h]

/-- A row of shape FIXED. -/
theorem firstBuilt_keyWord (hmask : r.mask = 0xFFFF#16) :
    firstBuilt (r :: rows) w = if w = r.pattern then some (r.build w) else firstBuilt rows w := by
  rw [firstBuilt_cons, hmask, show w &&& 0xFFFF#16 = w from BitVec.and_allOnes]

/-- A row of shape REGREG, keyed on the low nibble. -/
theorem firstBuilt_keyN (ht : fieldT w = t) (hmask : r.mask = 0xF00F#16)
    (hpat : r.pattern = t ++ 0#4 ++ 0#4 ++ fieldN r.pattern) :
    firstBuilt (r :: rows) w = if fieldN w = fieldN r.pattern then some (r.build w) else firstBuilt rows w := by
  have hkey : (w &&& r.mask) = r.pattern ↔ fieldN w = fieldN r.pattern := by
    rw [hmask, ← reg_fields ht rfl, mask_reg, hpat, fieldN_reg, fieldN_reg]
    exact BitVec.append_right_inj (t ++ 0#4 ++ 0#4)
  simp only [firstBuilt_cons, hkey]

/-- A row of shape REGOP, keyed on the low byte. -/
theorem firstBuilt_keyNN (ht : fieldT w = t) (hmask : r.mask = 0xF0FF#16)
    (hpat : r.pattern = t ++ 0#4 ++ fieldNN r.pattern) :
    firstBuilt (r :: rows) w = if fieldNN w = fieldNN r.pattern then some (r.build w) else firstBuilt rows w := by
  have hkey : (w &&& r.mask) = r.pattern ↔ fieldNN w = fieldNN r.pattern := by
    rw [hmask, ← imm_fields ht, mask_op, hpat, fieldNN_imm, fieldNN_imm]
    exact BitVec.append_right_inj (t ++ 0#4)
  simp only [firstBuilt_cons, hkey]

/-- A row keyed on the top nibble alone, as the last row of every family is. -/
theorem firstBuilt_keyT (ht : fieldT w = t) (hmask : r.mask = 0xF000#16) (hpat : r.pattern = t ++ 0#12) :
    firstBuilt (r :: rows) w = some (r.build w) := by
  rw [firstBuilt_cons, hmask, hpat]
  exact if_pos (by rw [← addr_fields ht, mask_addr])

/-! ### The rows of a family -/

theorem firstBuilt_singleRow (ht : fieldT w = t) (hrows : familyRows t = [r]) (hmask : r.mask = 0xF000#16)
    (hpat : r.pattern = t ++ 0#12) : firstBuilt opcodeTable w = some (r.build w) := by
  rw [firstBuilt_opcodeTable ht, hrows, firstBuilt_keyT ht hmask hpat]

/-- Families 5 and 9: the row for the low nibble 0, and the row for every other one (R77). -/
theorem firstBuilt_twoRows (ht : fieldT w = t) (hrows : familyRows t = [r, r']) (hmask : r.mask = 0xF00F#16)
    (hpat : r.pattern = t ++ 0#4 ++ 0#4 ++ 0#4) (hmask' : r'.mask = 0xF000#16) (hpat' : r'.pattern = t ++ 0#12) :
    firstBuilt opcodeTable w = if fieldN w = 0#4 then some (r.build w) else some (r'.build w) := by
  have hzero : fieldN r.pattern = 0#4 := by rw [hpat, fieldN_reg]
  rw [firstBuilt_opcodeTable ht, hrows, firstBuilt_keyN ht hmask (by rw [hzero, hpat]), hzero,
    firstBuilt_keyT ht hmask' hpat']

end

section
variable {w : Word}

theorem firstBuilt_system (ht : fieldT w = 0x0#4) : firstBuilt opcodeTable w = some (decodeSystem w) := by
  rw [firstBuilt_opcodeTable ht, show familyRows 0x0#4 = opcodeRowsLow.take 3 from rfl]
  simp (disch := decide) only [opcodeRowsLow, List.take_succ_cons, List.take_zero, firstBuilt_keyWord, firstBuilt_keyT ht,
    decodeSystem, apply_ite some]

theorem firstBuilt_alu (ht : fieldT w = 0x8#4) :
    firstBuilt opcodeTable w = some (decodeAlu (fieldX w) (fieldY w) (fieldN w)) := by
  rw [firstBuilt_opcodeTable ht, show familyRows 0x8#4 = opcodeRowsAlu from rfl]
  simp (disch := decide) only [opcodeRowsAlu, firstBuilt_keyN ht, firstBuilt_keyT ht]
  generalize fieldN w = n
  obtain h | h := mem_aluOpcodes_or_unmatched n
  · simp only [aluOpcodes, List.mem_cons, List.not_mem_nil, or_false] at h
    obtain rfl | rfl | rfl | rfl | rfl | rfl | rfl | rfl | rfl := h <;> rfl
  · simp only [unmatchedAluNibbles, List.mem_cons, List.not_mem_nil, or_false] at h
    obtain rfl | rfl | rfl | rfl | rfl | rfl | rfl := h <;> rfl

theorem firstBuilt_key (ht : fieldT w = 0xE#4) : firstBuilt opcodeTable w = some (decodeKey (fieldX w) (fieldNN w)) := by
  rw [firstBuilt_opcodeTable ht, show familyRows 0xE#4 = opcodeRowsHigh.drop 6 from rfl]
  simp (disch := decide) only [opcodeRowsHigh, List.drop_succ_cons, List.drop_zero, firstBuilt_keyNN ht, firstBuilt_keyT ht,
    decodeKey, apply_ite some]
  rfl

theorem firstBuilt_misc (ht : fieldT w = 0xF#4) : firstBuilt opcodeTable w = some (decodeMisc (fieldX w) (fieldNN w)) := by
  rw [firstBuilt_opcodeTable ht, show familyRows 0xF#4 = opcodeRowsMisc from rfl]
  simp (disch := decide) only [opcodeRowsMisc, firstBuilt_keyNN ht, firstBuilt_keyT ht, decodeMisc, apply_ite some]
  rfl

end

theorem firstBuilt_eq_decode (w : Word) : firstBuilt opcodeTable w = some (decode w) := by
  fun_cases decode w with
  | case1 ht => exact firstBuilt_system (fieldT_eq_ofNat ht)
  -- the families of one row
  | case2 ht | case3 ht | case4 ht | case5 ht | case8 ht | case9 ht | case13 ht | case14 ht | case15 ht | case16 ht =>
    exact firstBuilt_singleRow (fieldT_eq_ofNat ht) rfl rfl rfl
  | case6 ht hn | case11 ht hn => exact (firstBuilt_twoRows (fieldT_eq_ofNat ht) rfl rfl rfl rfl rfl).trans (if_pos hn)
  | case7 ht hn | case12 ht hn => exact (firstBuilt_twoRows (fieldT_eq_ofNat ht) rfl rfl rfl rfl rfl).trans (if_neg hn)
  | case10 ht => exact firstBuilt_alu (fieldT_eq_ofNat ht)
  | case17 ht => exact firstBuilt_key (fieldT_eq_ofNat ht)
  | case18 =>
    have ht : (fieldT w).toNat = 0xF := by have := (fieldT w).isLt; simp only [imp_false] at *; omega
    exact firstBuilt_misc (fieldT_eq_ofNat ht)

end Sys2Proof
end

section
/-! SUPPORT. The unmatched words of families 8, E and F as instructions (spec/42_alu.md R132, spec/45_keys_timers.md R166,
R167), and the step that runs an instruction which completes (spec/35_execution_cycle.md R90, R93). -/

namespace Sys2Proof.Machine

variable {s : State}

theorem onlyRegs_setPc (s : State) (n : Nat) : OnlyRegs [] s (s.setPc n) :=
  ⟨fun _ _ => rfl, rfl, fun _ => rfl, fun _ _ => rfl, ⟨rfl, rfl⟩, ⟨rfl, rfl⟩, rfl, rfl, rfl, rfl⟩

theorem exec_unmatched {x y : RegId} {n : Nibble} {nn : Byte} {i : Instr}
    (h : i = .nopAlu x y n ∨ i = .nopKey x nn ∨ i = .nopMisc x nn) (s : State) : exec i s = .next s.advance := by
  obtain rfl | rfl | rfl := h <;> rfl

theorem step_of_exec_next {i : Instr} {t : State} (hdecode : decode s.fetchWord = i) (hexec : exec i s = .next t) :
    step s = .next t.tick := by
  rw [step, hdecode, hexec, finishStep]

end Sys2Proof.Machine
end


section
/-! PROOFS. Encoding and decoding, and the unmatched words. -/

open Sys2Proof Sys2Proof.Machine

/-- Settles O2, instruction by instruction: the fields of its word are its operands, and a catch-all row's operand is none of
the keys before it. -/
theorem decodeOfEncodeIsIdentity : Obligations.DecodeOfEncodeIsIdentity := by
  unfold Obligations.DecodeOfEncodeIsIdentity
  exact fun _ => decode_encode

/-- Settles O3, branch by branch of the decoder: the word is its fields put together. -/
theorem encodeOfDecodeIsIdentity : Obligations.EncodeOfDecodeIsIdentity := by
  unfold Obligations.EncodeOfDecodeIsIdentity
  exact decode_standsFor

/-- Settles O4: only the rows of the word's family can accept it, and in that family the table's keys are the decoder's. -/
theorem decodeIsFirstMatchingRow : Obligations.DecodeIsFirstMatchingRow := by
  unfold Obligations.DecodeIsFirstMatchingRow
  exact firstBuilt_eq_decode

/-- Settles O1: each word is a constant, on which the decoder is evaluated. -/
theorem specWordsDecode : Obligations.SpecWordsDecode := by
  unfold Obligations.SpecWordsDecode
  decide

/-- Settles O24: an unmatched operand is no key of its family, and the three instructions do `next`. -/
theorem unmatchedWordsDoNothing : Obligations.UnmatchedWordsDoNothing := by
  unfold Obligations.UnmatchedWordsDoNothing
  intro x y n nn s
  refine ⟨fun hn => (decode_aluWord x y n).trans (decodeAlu_unmatched hn),
    fun hnn => (decode_keyWord x nn).trans (decodeKey_unmatched hnn),
    fun hnn => (decode_miscWord x nn).trans (decodeMisc_unmatched hnn), fun i hi => ?_⟩
  have hexec : exec i s = .next s.advance := exec_unmatched hi s
  exact ⟨⟨_, hexec, s.advance_toNat, onlyRegs_setPc s _⟩, fun hdecode =>
    ⟨_, step_of_exec_next hdecode hexec, s.advance_toNat, tickTimer_toNat s.dt, tickTimer_toNat s.st⟩⟩

end

section
/-! SUPPORT. The three ends an instruction and a step can have (spec/35_execution_cycle.md R95, R96), where the two faults
come from, and what the step adds to the instruction it fetched (R90, R91, R93). -/

namespace Sys2Proof.Machine

variable {i : Instr} {s t : State}

/-! ### The fetched word (R91) -/

theorem State.fetchWord_eq (s : State) :
    s.fetchWord = s.readByte s.pc.toNat ++ s.readByte ((s.pc.toNat + 1) % 4096) := by
  rw [State.fetchWord, wordOfBytes, s.readByte_congr (a := s.pc.toNat + 1) (Nat.mod_mod _ 4096).symm]

theorem decode_eq_ret_iff (w : Word) : decode w = .ret ↔ w = 0x00EE#16 := by
  obtain ⟨-, hw⟩ := decode_standsFor w
  constructor
  · intro h; rw [← hw, h, encode]
  · rintro rfl; rfl

theorem decode_eq_call_iff (w : Word) : (∃ nnn, decode w = .call nnn) ↔ fieldT w = 0x2#4 := by
  obtain ⟨-, hw⟩ := decode_standsFor w
  constructor
  · rintro ⟨nnn, h⟩; rw [← hw, h, encode, fieldT_addr]
  · intro h
    refine ⟨fieldNNN w, ?_⟩
    rw [← addr_fields h, fieldNNN_addr]
    exact decode_encode (i := .call _) rfl

/-! ### The ends of an instruction -/

/-- Everything an instruction can end with: one of the two stack faults, each with its cause, or a state (R95). -/
theorem exec_cases (i : Instr) (s : State) :
    (i = .ret ∧ s.sp.val = 0 ∧ exec i s = .fault .stackUnderflow) ∨
    ((∃ nnn, i = .call nnn) ∧ s.sp.val = 16 ∧ exec i s = .fault .stackOverflow) ∨
    ∃ t, exec i s = .next t := by
  by_cases hret : i = .ret
  · subst hret
    obtain ⟨hzero, hfault⟩ | ⟨-, _, _, -, hnext⟩ := execRet_cases s
    · exact .inl ⟨rfl, hzero, hfault⟩
    · exact .inr (.inr ⟨_, hnext⟩)
  · by_cases hcall : ∃ nnn, i = .call nnn
    · obtain ⟨nnn, rfl⟩ := hcall
      obtain ⟨hfull, hfault⟩ | ⟨-, _, -, hnext⟩ := execCall_cases nnn s
      · exact .inr (.inl ⟨⟨nnn, rfl⟩, hfull, hfault⟩)
      · exact .inr (.inr ⟨_, hnext⟩)
    · exact .inr (.inr (exec_completes hret (fun nnn hi => hcall ⟨nnn, hi⟩) s))

theorem exec_ne_refused (i : Instr) (s : State) (r : Refusal) : exec i s ≠ .refused r := by
  obtain ⟨-, -, h⟩ | ⟨-, -, h⟩ | ⟨t, h⟩ := exec_cases i s <;> rw [h] <;> nofun

theorem exec_stackUnderflow_iff : exec i s = .fault .stackUnderflow ↔ i = .ret ∧ s.sp.val = 0 := by
  constructor
  · intro h
    obtain ⟨hret, hzero, -⟩ | ⟨-, -, h'⟩ | ⟨t, h'⟩ := exec_cases i s
    · exact ⟨hret, hzero⟩
    · rw [h'] at h; cases h
    · rw [h'] at h; cases h
  · rintro ⟨rfl, hzero⟩
    obtain ⟨-, hfault⟩ | ⟨hpos, -⟩ := execRet_cases s
    · exact hfault
    · omega

theorem exec_stackOverflow_iff : exec i s = .fault .stackOverflow ↔ (∃ nnn, i = .call nnn) ∧ s.sp.val = 16 := by
  constructor
  · intro h
    obtain ⟨-, -, h'⟩ | ⟨hcall, hfull, -⟩ | ⟨t, h'⟩ := exec_cases i s
    · rw [h'] at h; cases h
    · exact ⟨hcall, hfull⟩
    · rw [h'] at h; cases h
  · rintro ⟨⟨nnn, rfl⟩, hfull⟩
    obtain ⟨-, hfault⟩ | ⟨hroom, -⟩ := execCall_cases nnn s
    · exact hfault
    · omega

/-- Every way PC changes ends in range: it is reduced modulo 4096, a 12-bit target, or as it was (R25). -/
theorem exec_keeps_pcInRange (hpc : s.pc.toNat ≤ 0x0FFF) (h : exec i s = .next t) : t.pc.toNat ≤ 0x0FFF := by
  have hway := pcChangesOnlyInTheListedWays i s t h
  cases i with
  | jp nnn | call nnn => have := nnn.isLt; simp only at hway; omega
  | ret => obtain ⟨_, htop⟩ := hway; omega
  | ldVxK x =>
    by_cases hzero : s.keys = 0#16
    · rw [(if_pos hzero).mp hway]; exact hpc
    · have hnext := (if_neg hzero).mp hway; omega
  | _ => simp only at hway; omega

/-! ### The step that ends so -/

theorem step_next_iff : step s = .next t ↔ ∃ u, exec (decode s.fetchWord) s = .next u ∧ t = u.tick :=
  finishStep_next_iff _ t

theorem step_fault_iff {f : Fault} : step s = .fault f ↔ exec (decode s.fetchWord) s = .fault f :=
  finishStep_fault_iff _ f

/-- Everything a step can end with (R95, R96). -/
theorem step_cases (s : State) :
    (∃ u, exec (decode s.fetchWord) s = .next u ∧ step s = .next u.tick) ∨
    step s = .fault .stackUnderflow ∨ step s = .fault .stackOverflow := by
  obtain ⟨-, -, h⟩ | ⟨-, -, h⟩ | ⟨u, h⟩ := exec_cases (decode s.fetchWord) s
  · exact .inr (.inl (step_fault_iff.mpr h))
  · exact .inr (.inr (step_fault_iff.mpr h))
  · exact .inl ⟨u, h, step_of_exec_next rfl h⟩

theorem step_ne_refused (s : State) (r : Refusal) : step s ≠ .refused r := by
  obtain ⟨u, -, h⟩ | h | h := step_cases s <;> rw [h] <;> nofun

end Sys2Proof.Machine
end

section
/-! SUPPORT. Other key flags and another place in another random source (spec/35_execution_cycle.md R97): an instruction that
does not read an input executes the same whatever the input is. -/

namespace Sys2Proof.Machine

/-- The state with its key flags, its source and its place in it each replaced as the function given says. -/
def State.mapInputs (k : BitVec 16 → BitVec 16) (source place : Nat → Nat) (s : State) : State :=
  { s with keys := k s.keys, source := source s.source, draws := place s.draws }

section
variable (k : BitVec 16 → BitVec 16) (source place : Nat → Nat)

theorem execRet_mapInputs (s : State) :
    execRet (s.mapInputs k source place) = mapNext (State.mapInputs k source place) (execRet s) := by
  have hpop : (s.mapInputs k source place).pop = s.pop.map (fun p => (p.1, p.2.mapInputs k source place)) := by
    rw [State.pop, State.pop, apply_dite (Option.map _)]; rfl
  rw [execRet, execRet, hpop]
  cases s.pop <;> rfl

theorem execCall_mapInputs (nnn : Addr12) (s : State) :
    execCall nnn (s.mapInputs k source place) = mapNext (State.mapInputs k source place) (execCall nnn s) := by
  have hpush : (s.mapInputs k source place).push (s.mapInputs k source place).pc =
      (s.push s.pc).map (State.mapInputs k source place) := by
    rw [State.push, State.push, apply_dite (Option.map _)]; rfl
  rw [execCall, execCall, hpush]
  cases s.push s.pc <;> rfl

/-- Replacing the inputs that an instruction does not read before it is replacing them after. -/
theorem exec_mapInputs {i : Instr} (hkeys : readsKeys i = true → k = id)
    (hrandom : readsRandom i = true → source = id ∧ place = id) (s : State) :
    exec i (s.mapInputs k source place) = mapNext (State.mapInputs k source place) (exec i s) := by
  cases i with
  | skp _ | sknp _ => cases hkeys rfl; rfl
  | ldVxK x =>
    cases hkeys rfl
    exact execLdVxK_comm (f := State.mapInputs id source place) (fun _ => rfl) (fun _ _ _ => rfl) x s
  | rnd _ _ => obtain ⟨rfl, rfl⟩ := hrandom rfl; rfl
  | ret => exact execRet_mapInputs k source place s
  | call nnn => exact execCall_mapInputs k source place nnn s
  | ldBVx _ | storeRegs _ =>
    exact congrArg (fun t => Host.Outcome.next t.advance)
      (State.writeBytes_comm (f := State.mapInputs k source place) (fun _ _ _ => rfl) s _ _)
  | loadRegs _ =>
    exact congrArg (fun t => Host.Outcome.next t.advance)
      (State.loadRegsFrom_comm (f := State.mapInputs k source place) (fun _ _ => rfl) (fun _ _ _ => rfl) s _ _)
  | _ => rfl

end

theorem withKeys_eq_mapNext (k : BitVec 16) (r : Result) :
    withKeys k r = mapNext (State.mapInputs (fun _ => k) id id) r := by
  cases r <;> rfl

theorem withSource_eq_mapNext (source place : Nat) (r : Result) :
    withSource source place r = mapNext (State.mapInputs id (fun _ => source) (fun _ => place)) r := by
  cases r <;> rfl

end Sys2Proof.Machine
end

section
/-! PROOFS. One step: what it runs, how it ends, its ticks, and the inputs it reads. -/

open Sys2Proof Sys2Proof.Machine

/-- Settles O6: the tick follows the instruction, which has left each timer as it was unless it is `FX15` or `FX18`. -/
theorem timersTickOncePerStep : Obligations.TimersTickOncePerStep := by
  unfold Obligations.TimersTickOncePerStep
  intro s t ht
  obtain ⟨u, hu, rfl⟩ := step_next_iff.mp ht
  have hdt : u.tick.dt.toNat = u.dt.toNat - 1 := tickTimer_toNat u.dt
  have hst : u.tick.st.toNat = u.st.toNat - 1 := tickTimer_toNat u.st
  refine ⟨fun x hx => ?_, fun hx => ?_, fun x hx => ?_, fun hx => ?_⟩
  · rw [hx] at hu; cases hu; exact hdt
  · rw [hdt, exec_sameDelayTimer hx hu]
  · rw [hx] at hu; cases hu; exact hst
  · rw [hst, exec_sameSoundTimer hx hu]

/-- Settles O7: an instruction that completes leaves PC in range, and every other end of a step is one of the two faults. -/
theorem stepIsTotal : Obligations.StepIsTotal := by
  unfold Obligations.StepIsTotal
  intro s hpc
  obtain ⟨u, hu, hnext⟩ | hfault := step_cases s
  · exact .inl ⟨u.tick, hnext, exec_keeps_pcInRange (t := u) hpc hu⟩
  · exact .inr hfault

/-- Settles O8: a step faults as its instruction does, only RET and CALL can, and each comes from its own words. -/
theorem stepFaultsExactlyAtStackBounds : Obligations.StepFaultsExactlyAtStackBounds := by
  unfold Obligations.StepFaultsExactlyAtStackBounds
  intro s
  rw [step_fault_iff, step_fault_iff, exec_stackUnderflow_iff, exec_stackOverflow_iff, decode_eq_ret_iff, decode_eq_call_iff]
  exact ⟨Iff.rfl, Iff.rfl⟩

/-- Settles O55: each clause replaces the one input that the instruction does not read. -/
theorem inputsAreReadOnlyWhereListed : Obligations.InputsAreReadOnlyWhereListed := by
  unfold Obligations.InputsAreReadOnlyWhereListed
  refine ⟨fun i s k hkeys => ?_, fun i s source place hrandom => ?_⟩
  · rw [withKeys_eq_mapNext]
    exact exec_mapInputs (fun _ => k) id id (fun h => by rw [hkeys] at h; cases h) (fun _ => ⟨rfl, rfl⟩) s
  · rw [withSource_eq_mapNext]
    exact exec_mapInputs id (fun _ => source) (fun _ => place) (fun _ => rfl) (fun h => by rw [hrandom] at h; cases h) s

/-- Settles O5: the word decoded is the two bytes at PC, and the step ends as the instruction does, ticked on success. -/
theorem stepRunsTheFetchedInstruction : Obligations.StepRunsTheFetchedInstruction := by
  unfold Obligations.StepRunsTheFetchedInstruction
  intro s i _ hdecode
  rw [← s.fetchWord_eq] at hdecode
  subst hdecode
  exact ⟨fun t ht => ⟨t.tick, step_of_exec_next rfl ht, tickTimer_toNat t.dt, tickTimer_toNat t.st, rfl⟩,
    fun f => step_fault_iff.mpr, fun r => ⟨exec_ne_refused _ s r, step_ne_refused s r⟩⟩

end

section
/-! SUPPORT. CALL and RET as a push and a pop (spec/40_flow.md R102, R104): the entry and the depth they leave, what they do to
the live entries, and that they touch nothing but PC and the call stack. -/

namespace Sys2Proof.Machine

variable {s t : State}

/-! ### The depth and the entries -/

/-- The depth is the number of live entries. -/
theorem sp_eq_of_liveEntries_eq (h : t.liveEntries = s.liveEntries) : t.sp = s.sp :=
  Fin.ext (by rw [← t.liveEntries_length, h, s.liveEntries_length])

theorem State.push_sp {w : Word} (h : s.push w = some t) : t.sp.val = s.sp.val + 1 := by
  rw [← t.liveEntries_length, State.push_liveEntries h, List.length_append, s.liveEntries_length, List.length_singleton]

theorem State.pop_sp {a : Word} (h : s.pop = some (a, t)) : t.sp.val + 1 = s.sp.val := by
  rw [← s.liveEntries_length, State.pop_liveEntries h, List.length_append, t.liveEntries_length, List.length_singleton]

/-- The entry pushed goes to the place the depth named (R33). -/
theorem State.push_stack {w : Word} (h : s.push w = some t) : ∃ hroom : s.sp.val < 16, t.stack = s.stack.set s.sp.val w := by
  obtain ⟨-, hnone⟩ | ⟨hroom, hsome⟩ := s.push_cases w
  · rw [hnone] at h; cases h
  · rw [hsome] at h; cases h; exact ⟨hroom, rfl⟩

/-! ### The frame -/

/-- Everything but PC and the call stack: the frame of CALL and RET. -/
def OnlyPcAndStack (s t : State) : Prop :=
  SameRegsBut [] s t ∧ t.i = s.i ∧ SameMemory s t ∧ SamePixels s t ∧ SameTimers s t ∧ SameInputs s t

theorem exec_onlyPcAndStack {i : Instr} (hi : i = .ret ∨ ∃ nnn, i = .call nnn) (h : exec i s = .next t) :
    OnlyPcAndStack s t := by
  have hframe : t = { s with pc := t.pc, stack := t.stack, sp := t.sp } := by
    obtain rfl | ⟨nnn, rfl⟩ := hi <;> exact exec_eq_withWritten h
  rw [hframe]
  exact ⟨fun _ _ => rfl, rfl, fun _ => rfl, fun _ _ => rfl, ⟨rfl, rfl⟩, rfl, rfl, rfl, rfl⟩

/-! ### The live entries -/

theorem exec_call_liveEntries {nnn : Addr12} (h : exec (.call nnn) s = .next t) : t.liveEntries = s.liveEntries ++ [s.pc] := by
  obtain ⟨u, hpush, rfl⟩ := exec_call_next h
  change u.liveEntries = _
  exact State.push_liveEntries hpush

/-- RET goes behind the newest live entry and leaves the others, however they came to be there. -/
theorem exec_ret_of_liveEntries {l : List Word} {a : Word} (h : s.liveEntries = l ++ [a]) :
    ∃ v, exec .ret s = .next v ∧ v.pc.toNat = (a.toNat + 2) % 4096 ∧ v.liveEntries = l := by
  have hdepth : s.sp.val = l.length + 1 := by rw [← s.liveEntries_length, h, List.length_append, List.length_singleton]
  obtain ⟨hzero, -⟩ | ⟨-, b, u, hpop, hnext⟩ := execRet_cases s
  · omega
  · have hsame : l ++ [a] = u.liveEntries ++ [b] := h.symm.trans (State.pop_liveEntries hpop)
    obtain ⟨rfl, htop⟩ := List.append_inj' hsame rfl
    obtain rfl : a = b := List.singleton_inj.mp htop
    exact ⟨_, hnext, u.setPc_toNat _, rfl⟩

end Sys2Proof.Machine
end

section
/-! PROOFS. Control flow: SYS, the two jumps, CALL and RET. -/

open Sys2Proof Sys2Proof.Machine

/-- Settles O14: the live entries at the return are those before the call and the call's own address on top. -/
theorem returnUndoesCall : Obligations.ReturnUndoesCall := by
  unfold Obligations.ReturnUndoesCall
  intro nnn s t u hcall hstack hsp
  have hlive : u.liveEntries = s.liveEntries ++ [s.pc] :=
    (liveEntries_of_sameStack ⟨hstack, hsp⟩).trans (exec_call_liveEntries hcall)
  obtain ⟨v, hret, hpc, hrest⟩ := exec_ret_of_liveEntries hlive
  exact ⟨v, hret, hpc, sp_eq_of_liveEntries_eq hrest, hrest⟩

/-- Settles O9: SYS is `next`, and its word is well formed when it is neither CLS nor RET. -/
theorem sysOnlyAdvancesPc : Obligations.SysOnlyAdvancesPc := by
  unfold Obligations.SysOnlyAdvancesPc
  intro nnn s
  exact ⟨fun hcls hret => decode_encode (i := .sys nnn) (wellFormed_sys.mpr ⟨hcls, hret⟩),
    s.advance, rfl, s.advance_toNat, onlyRegs_setPc s _⟩

/-- Settles O10: a 12-bit target, odd or even, is not changed by the assignment to PC. -/
theorem jumpPutsTargetInPc : Obligations.JumpPutsTargetInPc := by
  unfold Obligations.JumpPutsTargetInPc
  intro nnn s
  exact ⟨decode_encode (i := .jp nnn) rfl, s.setPc nnn.toNat, rfl, s.setPc_addr_toNat nnn, onlyRegs_setPc s _⟩

/-- Settles O11: the assignment to PC reduces the sum. -/
theorem jumpV0AddsRegisterZero : Obligations.JumpV0AddsRegisterZero := by
  unfold Obligations.JumpV0AddsRegisterZero
  intro nnn s
  exact ⟨decode_encode (i := .jpV0 nnn) rfl, s.setPc (nnn.toNat + (s.reg 0#4).toNat), rfl, s.setPc_toNat _,
    onlyRegs_setPc s _⟩

/-- Settles O12: with room CALL is a push of PC and a jump, and a full stack is the cause of its fault. -/
theorem callPushesItsOwnAddress : Obligations.CallPushesItsOwnAddress := by
  unfold Obligations.CallPushesItsOwnAddress
  intro nnn s
  refine ⟨decode_encode (i := .call nnn) rfl, fun hroom => ?_, fun hfull => exec_stackOverflow_iff.mpr ⟨⟨nnn, rfl⟩, hfull⟩⟩
  obtain ⟨hfull, -⟩ | ⟨-, u, hpush, hnext⟩ := execCall_cases nnn s
  · omega
  · obtain ⟨_, hstack⟩ := State.push_stack hpush
    have hdepth : u.sp.val = s.sp.val + 1 := State.push_sp hpush
    have hpushed : u.stack[s.sp.val] = s.pc := by rw [hstack, Vector.getElem_set_self]
    have hothers : ∀ (k : Nat) (hk : k < 16), k ≠ s.sp.val → u.stack[k] = s.stack[k] := fun k hk hne => by
      rw [hstack, Vector.getElem_set_ne _ hk hne.symm]
    exact ⟨_, hnext, u.setPc_addr_toNat nnn, hdepth, hpushed, hothers,
      exec_onlyPcAndStack (.inr ⟨nnn, rfl⟩) hnext⟩

/-- Settles O13: with an entry RET is a pop and an assignment to PC, and an empty stack is the cause of its fault, which the
step passes on. -/
theorem returnPopsAndAddsTwo : Obligations.ReturnPopsAndAddsTwo := by
  unfold Obligations.ReturnPopsAndAddsTwo
  intro s
  obtain ⟨hunderflow, -⟩ := stepFaultsExactlyAtStackBounds s
  refine ⟨decode_encode (i := .ret) rfl, fun hpos => ?_, fun hzero => exec_stackUnderflow_iff.mpr ⟨rfl, hzero⟩,
    fun hzero hword => hunderflow.mpr ⟨hword, hzero⟩⟩
  obtain ⟨hzero, -⟩ | ⟨-, a, u, hpop, hnext⟩ := execRet_cases s
  · omega
  · obtain ⟨_, rfl⟩ := State.pop_top hpop
    have hstack : u.stack = s.stack := by rw [State.pop_frame hpop]
    have hdepth : u.sp.val + 1 = s.sp.val := State.pop_sp hpop
    exact ⟨_, hnext, hdepth, u.setPc_toNat _, hstack, exec_onlyPcAndStack (.inl rfl) hnext⟩

end

section
/-! SUPPORT. Where a skip on the equality or inequality of two bytes goes (spec/41_skip.md R110). -/

namespace Sys2Proof.Machine

theorem State.skipIf_beq_toNat (s : State) (a b : Byte) :
    (s.skipIf (a == b)).pc.toNat = (s.pc.toNat + if a = b then 4 else 2) % 4096 := by
  rw [State.skipIf_toNat]
  simp only [beq_iff_eq]

/-- A skip on inequality is the one on equality with its two outcomes exchanged (R112, R114). -/
theorem State.skipIf_bne_toNat (s : State) (a b : Byte) :
    (s.skipIf (a != b)).pc.toNat = (s.pc.toNat + if a = b then 2 else 4) % 4096 := by
  rw [State.skipIf_toNat]
  simp only [bne_iff_ne, ne_eq, ite_not]

theorem onlyRegs_skipIf (s : State) (c : Bool) : OnlyRegs [] s (s.skipIf c) := onlyRegs_setPc s _

end Sys2Proof.Machine
end

section
/-! PROOFS. Conditional skips on registers. -/

open Sys2Proof Sys2Proof.Machine

/-- Settles O15: each skip is an assignment to PC alone, and two bytes are equal exactly when their values are. -/
theorem skipsCompareForEquality : Obligations.SkipsCompareForEquality := by
  unfold Obligations.SkipsCompareForEquality
  intro x y nn s
  simp only [BitVec.toNat_inj]
  refine ⟨?seImm, ?sneImm, ?seReg, ?sneReg⟩
  case seImm =>
    exact ⟨decode_encode (i := .seImm x nn) rfl, _, rfl, s.skipIf_beq_toNat _ _, onlyRegs_skipIf s _⟩
  case sneImm =>
    exact ⟨decode_encode (i := .sneImm x nn) rfl, _, rfl, s.skipIf_bne_toNat _ _, onlyRegs_skipIf s _⟩
  case seReg =>
    exact ⟨decode_encode (i := .seReg x y) rfl, _, rfl, s.skipIf_beq_toNat _ _, onlyRegs_skipIf s _⟩
  case sneReg =>
    exact ⟨decode_encode (i := .sneReg x y) rfl, _, rfl, s.skipIf_bne_toNat _ _, onlyRegs_skipIf s _⟩

end

section
/-! SUPPORT. What the two shared forms of an arithmetic instruction leave (spec/42_alu.md R120), and the values of the flags and
of the absolute difference as numbers (R127 to R129). -/

namespace Sys2Proof.Machine

/-! ### Write a result, write a result and a flag (R23, R120) -/

/-- The frame of whatever leaves all but PC and the register file as it was. -/
theorem onlyRegs_of_frame {l : List RegId} {s t : State} (hregs : SameRegsBut l s t)
    (hframe : t = { s with pc := t.pc, v := t.v }) : OnlyRegs l s t := by
  rw [hframe]
  exact ⟨hregs, rfl, fun _ => rfl, fun _ _ => rfl, ⟨rfl, rfl⟩, ⟨rfl, rfl⟩, rfl, rfl, rfl, rfl⟩

theorem writeReg_spec (x : RegId) (b : Byte) (s : State) :
    ∃ t, writeReg x b s = .next t ∧ t.reg x = b ∧ t.pc.toNat = (s.pc.toNat + 2) % 4096 ∧ OnlyRegs [x] s t :=
  ⟨_, rfl, s.setReg_reg_same x b, (s.setReg x b).advance_toNat, onlyRegs_of_frame (sameRegsBut_setReg x b s) rfl⟩

/-- The result stays unless the flag, written last, takes its place (D7). -/
theorem writeRegFlag_spec (x : RegId) (b flag : Byte) (s : State) :
    ∃ t, writeRegFlag x b flag s = .next t ∧ (x ≠ vf → t.reg x = b) ∧ t.reg vf = flag ∧
      t.pc.toNat = (s.pc.toNat + 2) % 4096 ∧ OnlyRegs [x, vf] s t := by
  refine ⟨_, rfl, fun hx => ?_, ?_, (s.setRegFlag x b flag).advance_toNat,
    onlyRegs_of_frame (sameRegsBut_setRegFlag x b flag s) rfl⟩
  · rw [State.advance_reg, State.setRegFlag_reg, if_neg hx, if_pos rfl]
  · rw [State.advance_reg, State.setRegFlag_reg, if_pos rfl]

/-! ### Flags and results as numbers -/

theorem flagByte_toNat (c : Bool) : (flagByte c).toNat = c.toNat := by cases c <;> rfl

theorem flagByte_decide_toNat (p : Prop) [Decidable p] : (flagByte (decide p)).toNat = if p then 1 else 0 := by
  simp only [flagByte, decide_eq_true_eq, apply_ite BitVec.toNat, BitVec.toNat_ofNat, Nat.reducePow, Nat.reduceMod]

theorem carryFlag_toNat (a b : Byte) : (carryFlag a b).toNat = if 255 < a.toNat + b.toNat then 1 else 0 :=
  flagByte_decide_toNat _

theorem noBorrowFlag_toNat (minuend subtrahend : Byte) :
    (noBorrowFlag minuend subtrahend).toNat = if subtrahend.toNat ≤ minuend.toNat then 1 else 0 :=
  flagByte_decide_toNat _

/-- The bit shifted out is the remainder of the halving. -/
theorem shiftRightFlag_toNat (a : Byte) : (shiftRightFlag a).toNat = a.toNat % 2 := by
  rw [shiftRightFlag, flagByte_toNat, BitVec.getLsbD, Nat.toNat_testBit, Nat.pow_zero, Nat.div_one]

theorem absDiff_toNat_eq_natAbs (a b : Byte) : (absDiff a b).toNat = Int.natAbs (a.toNat - b.toNat : Int) := by
  rw [absDiff_toNat]
  split <;> omega

end Sys2Proof.Machine
end

section
/-! PROOFS. Register load, arithmetic, logic and random. -/

open Sys2Proof Sys2Proof.Machine

/-- Settles O17: both write one register and no flag, whatever X is. -/
theorem immediateLoadAndAdd : Obligations.ImmediateLoadAndAdd := by
  unfold Obligations.ImmediateLoadAndAdd
  intro x nn s
  refine ⟨⟨decode_encode (i := .ldImm x nn) rfl, writeReg_spec x nn s⟩, decode_encode (i := .addImm x nn) rfl, ?_⟩
  obtain ⟨t, hnext, hsum, hpc, hframe⟩ := writeReg_spec x (s.reg x + nn) s
  exact ⟨t, hnext, by rw [hsum, BitVec.toNat_add], hpc, hframe⟩

/-- Settles O18: all four write V[X] alone, so VF changes only as V[X]. -/
theorem copyAndLogicLeaveVf : Obligations.CopyAndLogicLeaveVf := by
  unfold Obligations.CopyAndLogicLeaveVf
  intro x y s
  refine ⟨?copy, ?or, ?and, ?xor⟩
  case copy => exact ⟨decode_encode (i := .ldReg x y) rfl, writeReg_spec x (s.reg y) s⟩
  case or =>
    obtain ⟨t, hnext, hor, hpc, hframe⟩ := writeReg_spec x (s.reg x ||| s.reg y) s
    exact ⟨decode_encode (i := .orReg x y) rfl, t, hnext, fun k => by rw [hor, BitVec.getLsbD_or], hpc, hframe⟩
  case and =>
    obtain ⟨t, hnext, hand, hpc, hframe⟩ := writeReg_spec x (s.reg x &&& s.reg y) s
    exact ⟨decode_encode (i := .andReg x y) rfl, t, hnext, fun k => by rw [hand, BitVec.getLsbD_and], hpc, hframe⟩
  case xor =>
    obtain ⟨t, hnext, hxor, hpc, hframe⟩ := writeReg_spec x (s.reg x ^^^ s.reg y) s
    exact ⟨decode_encode (i := .xorReg x y) rfl, t, hnext, fun k => by rw [hxor, BitVec.getLsbD_xor], hpc, hframe⟩

/-- Settles O19: the flag is written last, so with X = 15 VF is the carry and the sum is lost. -/
theorem addRecordsCarry : Obligations.AddRecordsCarry := by
  unfold Obligations.AddRecordsCarry
  intro x y s
  obtain ⟨t, hnext, hsum, hflag, hpc, hframe⟩ := writeRegFlag_spec x (s.reg x + s.reg y) (carryFlag (s.reg x) (s.reg y)) s
  exact ⟨decode_encode (i := .addReg x y) rfl, t, hnext, fun hx => by rw [hsum hx, BitVec.toNat_add],
    by rw [hflag, carryFlag_toNat], hpc, hframe⟩

/-- Settles O20: the byte left is the distance of the two operands, from either side. -/
theorem subLeavesAbsoluteDifference : Obligations.SubLeavesAbsoluteDifference := by
  unfold Obligations.SubLeavesAbsoluteDifference
  intro x y s
  obtain ⟨t, hnext, hdiff, hflag, hpc, hframe⟩ :=
    writeRegFlag_spec x (absDiff (s.reg x) (s.reg y)) (noBorrowFlag (s.reg x) (s.reg y)) s
  exact ⟨decode_encode (i := .subReg x y) rfl, t, hnext, fun hx => by rw [hdiff hx, absDiff_toNat_eq_natAbs],
    by rw [hflag, noBorrowFlag_toNat], hpc, hframe⟩

/-- Settles O21: result and flag are the quotient and the remainder of V[X] by 2; Y is not read. -/
theorem shrHalvesAndKeepsLowBit : Obligations.ShrHalvesAndKeepsLowBit := by
  unfold Obligations.ShrHalvesAndKeepsLowBit
  intro x y s
  obtain ⟨t, hnext, hhalf, hflag, hpc, hframe⟩ := writeRegFlag_spec x (s.reg x >>> 1) (shiftRightFlag (s.reg x)) s
  exact ⟨decode_encode (i := .shr x y) rfl, t, hnext,
    fun hx => by rw [hhalf hx, BitVec.toNat_ushiftRight, Nat.shiftRight_eq_div_pow, Nat.pow_one],
    by rw [hflag, shiftRightFlag_toNat], hpc, hframe⟩

/-- Settles O25: the byte is the one at the place before the draw, and nothing is used of it but that it is masked. -/
theorem randomByteIsMasked : Obligations.RandomByteIsMasked := by
  unfold Obligations.RandomByteIsMasked
  intro x nn s
  have hreg : (s.rndDrawn.setReg x (nn &&& s.rndByte)).advance.reg x = nn &&& s.rndByte := State.setReg_reg_same _ x _
  exact ⟨decode_encode (i := .rnd x nn) rfl, _, rfl, rfl, fun k => by rw [hreg, BitVec.getLsbD_and, State.rndByte],
    State.advance_toNat _, sameRegsBut_setReg x _ s.rndDrawn, rfl, fun _ => rfl, fun _ _ => rfl, ⟨rfl, rfl⟩, ⟨rfl, rfl⟩,
    rfl, rfl, rfl⟩

end

section
/-! SUPPORT. What the instructions of spec/43_index_memory.md leave: the frame they share, the values put into I as numbers
(R140, R142), and the registers after `FX65` (R145). -/

namespace Sys2Proof.Machine

variable {s t : State}

/-! ### The frame -/

/-- The frame of whatever writes no more than PC, I, the registers and memory, as the instructions of the chapter do (R43). -/
theorem samePixelsStackTimersInputs_of_frame {pc i : Word} {v : Vector Byte 16} {mem : Memory}
    (hframe : t = { s with pc := pc, i := i, v := v, mem := mem }) :
    SamePixels s t ∧ SameStack s t ∧ SameTimers s t ∧ SameInputs s t := by
  subst hframe
  exact ⟨fun _ _ => rfl, ⟨rfl, rfl⟩, ⟨rfl, rfl⟩, rfl, rfl, rfl, rfl⟩

/-- Setting I and ending with `next` changes I and PC only. -/
theorem setI_advance_frame (s : State) (w : Word) :
    (s.setI w).advance.pc.toNat = (s.pc.toNat + 2) % 4096 ∧ SameRegsBut [] s (s.setI w).advance ∧
      SameMemory s (s.setI w).advance ∧ SamePixels s (s.setI w).advance ∧ SameStack s (s.setI w).advance ∧
      SameTimers s (s.setI w).advance ∧ SameInputs s (s.setI w).advance :=
  ⟨(s.setI w).advance_toNat, fun _ _ => rfl, fun _ => rfl, samePixelsStackTimersInputs_of_frame rfl⟩

/-! ### I after a transfer (R146, D17) -/

theorem exec_storeRegs_sameIndex {x : RegId} (h : exec (.storeRegs x) s = .next t) : t.i = s.i :=
  exec_sameIndex (i := .storeRegs x) nofun (fun _ => ⟨nofun, nofun⟩) h

theorem exec_loadRegs_sameIndex {x : RegId} (h : exec (.loadRegs x) s = .next t) : t.i = s.i :=
  exec_sameIndex (i := .loadRegs x) nofun (fun _ => ⟨nofun, nofun⟩) h

/-! ### The values put into I -/

theorem addrImm_toNat (nnn : Addr12) : (addrImm nnn).toNat = nnn.toNat :=
  BitVec.toNat_setWidth_of_le (by decide)

/-- The largest glyph address, for the byte 255, is far below 65536, so 16 bits hold every one. -/
theorem glyphAddr_toNat (b : Byte) : (glyphAddr b).toNat = 0x050 + 5 * b.toNat := by
  have hb := b.isLt
  exact Nat.mod_eq_of_lt (by simp only [Config.fontBase, Config.glyphBytes]; omega)

theorem add_byte_toNat (w : Word) (b : Byte) : (w + b.zeroExtend 16).toNat = (w.toNat + b.toNat) % 65536 := by
  rw [BitVec.toNat_add, BitVec.toNat_setWidth_of_le (by decide)]

/-! ### The registers after a load -/

theorem exec_loadRegs_reg {x : RegId} (h : exec (.loadRegs x) s = .next t) (r : RegId) :
    t.reg r = if r.toNat ≤ x.toNat then s.readByte (s.effAddr r.toNat) else s.reg r := by
  cases h
  have hload := s.loadRegsFrom_reg (s.effAddr 0) (x.toNat + 1) x.isLt r
  simp only [Nat.lt_succ_iff] at hload
  exact hload

end Sys2Proof.Machine
end

section
/-! PROOFS. The index register and memory transfers. -/

open Sys2Proof Sys2Proof.Machine

/-- Settles O33: the store leaves I as it was, so the load reads V[r] where the store has put it, and memory does not depend on
the registers in between. -/
theorem loadRestoresStoredRegisters : Obligations.LoadRestoresStoredRegisters := by
  unfold Obligations.LoadRestoresStoredRegisters
  intro x s t v hstore
  have hindex : t.i = s.i := exec_storeRegs_sameIndex hstore
  refine ⟨_, rfl, fun r hr => ?_⟩
  calc
    _ = t.readByte (t.effAddr r.toNat) := (exec_loadRegs_reg (s := { t with v := v }) rfl r).trans (if_pos hr)
    _ = t.readByte (s.effAddr r.toNat) := by rw [State.effAddr, State.effAddr, hindex]
    _ = s.reg r := exec_storeRegs_readByte hstore hr

/-- Settles O27, by the value of a zero-extended address. -/
theorem indexLoad : Obligations.IndexLoad := by
  unfold Obligations.IndexLoad
  intro nnn s
  exact ⟨decode_encode (i := .ldI nnn) rfl, _, rfl, addrImm_toNat nnn, setI_advance_frame s _⟩

/-- Settles O28: the sum is that of two words, the byte zero-extended, and I is all it is put into. -/
theorem indexAddSetsNoFlag : Obligations.IndexAddSetsNoFlag := by
  unfold Obligations.IndexAddSetsNoFlag
  intro x s
  exact ⟨decode_encode (i := .addIVx x) rfl, _, rfl, add_byte_toNat s.i (s.reg x), setI_advance_frame s _⟩

/-- Settles O29: the address of the glyph for any byte fits in I. -/
theorem glyphAddressOfByte : Obligations.GlyphAddressOfByte := by
  unfold Obligations.GlyphAddressOfByte
  intro x s
  exact ⟨decode_encode (i := .ldFVx x) rfl, _, rfl, glyphAddr_toNat (s.reg x), setI_advance_frame s _⟩

/-- Settles O31, by what memory reads as after `FX55` and the frame of its writes. -/
theorem registersAreStored : Obligations.RegistersAreStored := by
  unfold Obligations.RegistersAreStored
  intro x s
  have hnext : exec (.storeRegs x) s = .next (s.writeBytes (s.effAddr 0) (s.regsUpTo x)).advance := rfl
  have hpc := (s.writeBytes (s.effAddr 0) (s.regsUpTo x)).advance_toNat
  rw [State.writeBytes_pc] at hpc
  exact ⟨decode_encode (i := .storeRegs x) rfl, _, hnext, fun _ hr => exec_storeRegs_readByte hnext hr,
    exec_sameMemoryOutside hnext, hpc, exec_sameRegsBut hnext, exec_storeRegs_sameIndex hnext,
    samePixelsStackTimersInputs_of_frame (exec_eq_withWritten hnext)⟩

/-- Settles O32, by what the registers hold after `FX65`, which stores no byte. -/
theorem registersAreLoaded : Obligations.RegistersAreLoaded := by
  unfold Obligations.RegistersAreLoaded
  intro x s
  have hnext : exec (.loadRegs x) s = .next (s.loadRegsFrom (s.effAddr 0) (x.toNat + 1)).advance := rfl
  have hpc := (s.loadRegsFrom (s.effAddr 0) (x.toNat + 1)).advance_toNat
  rw [State.loadRegsFrom_pc] at hpc
  have hmem := exec_sameMemoryOutside hnext
  exact ⟨decode_encode (i := .loadRegs x) rfl, _, hnext, exec_loadRegs_reg hnext, hpc,
    exec_loadRegs_sameIndex hnext, fun a => hmem a (fun _ hk => absurd hk (Nat.not_lt_zero _)),
    samePixelsStackTimersInputs_of_frame (exec_eq_withWritten hnext)⟩

end

section
/-! SUPPORT. The pixels a draw inverts and its collision, in the terms of `spriteCovers` (spec/44_display.md R152), and the frame
that clearing and drawing share (R43). -/

namespace Sys2Proof.Machine

variable {s t : State} {x y : RegId} {n : Nibble}

/-! ### The frame -/

/-- The frame of whatever writes no more than PC, the registers and the framebuffer. -/
theorem sameIndexMemoryStackTimersInputs_of_frame {pc : Word} {v : Vector Byte 16} {fb : Framebuffer}
    (hframe : t = { s with pc := pc, v := v, fb := fb }) :
    t.i = s.i ∧ SameMemory s t ∧ SameStack s t ∧ SameTimers s t ∧ SameInputs s t := by
  subst hframe
  exact ⟨rfl, fun _ => rfl, ⟨rfl, rfl⟩, ⟨rfl, rfl⟩, rfl, rfl, rfl, rfl⟩

/-! ### The sprite of a state -/

theorem State.readBytes_getD (s : State) (a n r : Nat) :
    (s.readBytes a n).getD r 0#8 = if r < n then s.readByte (a + r) else 0#8 := by
  rw [State.readBytes, List.getD_eq_getElem?_getD, List.getElem?_map]
  split
  · rw [List.getElem?_range ‹_›]; rfl
  · rw [List.getElem?_eq_none (by rw [List.length_range]; omega)]; rfl

theorem State.effAddr_zero (s : State) : s.effAddr 0 = s.i.toNat := rfl

/-- `DXYN` toggles the pixel (`px`, `py`): it is in the grid and the sprite has a bit of 1 there. -/
def State.toggledBy (s : State) (x y : RegId) (n : Nibble) (px py : Nat) : Bool :=
  decide (px ≤ 63 ∧ py ≤ 31) &&
    spriteBit (s.readBytes (s.effAddr 0) n.toNat) (s.reg x).toNat (s.reg y).toNat px py

theorem spriteBit_eq_true_iff_spriteCovers (s : State) (x y : RegId) (n : Nibble) (px py : Nat) :
    spriteBit (s.readBytes (s.effAddr 0) n.toNat) (s.reg x).toNat (s.reg y).toNat px py = true ↔
      spriteCovers s x y n px py := by
  simp only [spriteBit, Bool.and_eq_true, decide_eq_true_eq, State.readBytes_getD, State.effAddr_zero]
  constructor
  · rintro ⟨⟨hleft, hright, htop⟩, hbit⟩
    have hrow : py - (s.reg y).toNat < n.toNat := Nat.lt_of_not_le fun hout => by
      rw [if_neg (Nat.not_lt_of_le hout), BitVec.getLsbD_zero] at hbit
      exact Bool.noConfusion hbit
    rw [if_pos hrow] at hbit
    exact ⟨_, _, hrow, by omega, by omega, by omega, hbit⟩
  · rintro ⟨r, c, hr, hc, rfl, rfl, hbit⟩
    refine ⟨by omega, ?_⟩
    rwa [Nat.add_sub_cancel_left, Nat.add_sub_cancel_left, if_pos hr]

theorem State.toggledBy_iff {px py : Nat} :
    s.toggledBy x y n px py = true ↔ px ≤ 63 ∧ py ≤ 31 ∧ spriteCovers s x y n px py := by
  rw [State.toggledBy, Bool.and_eq_true, decide_eq_true_eq, spriteBit_eq_true_iff_spriteCovers, and_assoc]

/-! ### What a draw leaves -/

theorem exec_drw_frame (h : exec (.drw x y n) s = .next t) :
    t.i = s.i ∧ SameMemory s t ∧ SameStack s t ∧ SameTimers s t ∧ SameInputs s t :=
  sameIndexMemoryStackTimersInputs_of_frame (exec_eq_withWritten h)

theorem exec_drw_pixel (h : exec (.drw x y n) s = .next t) (px py : Nat) :
    t.pixel px py = (s.pixel px py ^^ s.toggledBy x y n px py) := by
  cases h
  exact Canvas.plotRows_pixel _ _ _ _ px py

theorem exec_drw_pixel_of_covers (h : exec (.drw x y n) s = .next t) {px py : Nat} (hpx : px ≤ 63) (hpy : py ≤ 31)
    (hcov : spriteCovers s x y n px py) : t.pixel px py = !s.pixel px py := by
  rw [exec_drw_pixel h, State.toggledBy_iff.mpr ⟨hpx, hpy, hcov⟩, Bool.xor_true]

theorem exec_drw_pixel_of_not_covers (h : exec (.drw x y n) s = .next t) {px py : Nat}
    (hnot : ¬ spriteCovers s x y n px py) : t.pixel px py = s.pixel px py := by
  have hkept : s.toggledBy x y n px py = false :=
    Bool.eq_false_iff.mpr fun htoggled => hnot (State.toggledBy_iff.mp htoggled).2.2
  rw [exec_drw_pixel h, hkept, Bool.xor_false]

/-- The collision is with the framebuffer as it was before the draw (R152). -/
theorem State.drawSprite_coll_iff :
    (s.drawSprite x y n).coll = true ↔
      ∃ px py, px ≤ 63 ∧ py ≤ 31 ∧ spriteCovers s x y n px py ∧ s.pixel px py = true := by
  simp only [State.drawSprite, Canvas.plotRows_coll, Bool.false_eq_true, false_or, spriteBit_eq_true_iff_spriteCovers,
    State.pixel]

theorem exec_drw_flag (h : exec (.drw x y n) s = .next t) : t.reg vf = flagByte (s.drawSprite x y n).coll := by
  cases h
  exact State.setReg_reg_same _ vf _

theorem exec_drw_flag_eq_one_iff (h : exec (.drw x y n) s = .next t) :
    t.reg vf = 1#8 ↔ ∃ px py, px ≤ 63 ∧ py ≤ 31 ∧ spriteCovers s x y n px py ∧ s.pixel px py = true := by
  rw [exec_drw_flag h, flagByte_eq_one_iff, State.drawSprite_coll_iff]

/-! ### A second draw (R155) -/

/-- A draw whose coordinates are not VF leaves all its operands, I among them (D17), so the next one covers the same pixels. -/
theorem exec_drw_spriteCovers_iff (hx : x ≠ vf) (hy : y ≠ vf) (h : exec (.drw x y n) s = .next t) (px py : Nat) :
    spriteCovers t x y n px py ↔ spriteCovers s x y n px py := by
  obtain ⟨hindex, hmem, -⟩ := exec_drw_frame h
  have hregs : SameRegsBut [vf] s t := exec_sameRegsBut h
  rw [spriteCovers, spriteCovers, hregs x (mt List.mem_singleton.mp hx), hregs y (mt List.mem_singleton.mp hy), hindex]
  simp only [hmem _]

theorem exec_drw_toggledBy (hx : x ≠ vf) (hy : y ≠ vf) (h : exec (.drw x y n) s = .next t) (px py : Nat) :
    t.toggledBy x y n px py = s.toggledBy x y n px py := by
  rw [Bool.eq_iff_iff, State.toggledBy_iff, State.toggledBy_iff, exec_drw_spriteCovers_iff hx hy h]

end Sys2Proof.Machine
end

section
/-! PROOFS. Display: CLS and DRW. -/

open Sys2Proof Sys2Proof.Machine

/-- Settles O37: a draw toggles the pixels of the grid that the sprite covers, and writes no more than PC, VF and the
framebuffer. -/
theorem drawInvertsSpritePixels : Obligations.DrawInvertsSpritePixels := by
  unfold Obligations.DrawInvertsSpritePixels
  intro x y n s
  obtain ⟨t, hnext⟩ : ∃ t, exec (.drw x y n) s = .next t := ⟨_, rfl⟩
  have hpc : t.pc.toNat = (s.pc.toNat + 2) % 4096 := by cases hnext; exact State.advance_toNat _
  exact ⟨decode_encode (i := .drw x y n) rfl, t, hnext,
    fun _ _ hpx hpy => ⟨exec_drw_pixel_of_covers hnext hpx hpy, exec_drw_pixel_of_not_covers hnext⟩, hpc,
    exec_sameRegsBut hnext, exec_drw_frame hnext⟩

/-- Settles O38: VF is the flag of the collision, which a lit pixel under the sprite makes. -/
theorem drawFlagIsCollision : Obligations.DrawFlagIsCollision := by
  unfold Obligations.DrawFlagIsCollision
  intro x y n s
  obtain ⟨t, hnext⟩ : ∃ t, exec (.drw x y n) s = .next t := ⟨_, rfl⟩
  have hone := exec_drw_flag_eq_one_iff hnext
  have hzeroOrOne : t.reg vf = 0#8 ∨ t.reg vf = 1#8 := exec_drw_flag hnext ▸ flagByte_cases _
  exact ⟨t, hnext, hone.mpr, fun hnone => hzeroOrOne.resolve_right (mt hone.mp hnone)⟩

/-- Settles O39: the second draw toggles the same pixels once more, and it collides where the first has lit one. -/
theorem drawingTwiceRestores : Obligations.DrawingTwiceRestores := by
  unfold Obligations.DrawingTwiceRestores
  intro x y n s t hx hy hfirst
  obtain ⟨u, hsecond⟩ : ∃ u, exec (.drw x y n) t = .next u := ⟨_, rfl⟩
  refine ⟨u, hsecond, fun px py => ?_, (exec_drw_flag_eq_one_iff hsecond).trans ?_⟩
  · rw [exec_drw_pixel hsecond, exec_drw_pixel hfirst, exec_drw_toggledBy hx hy hfirst, Bool.xor_assoc, Bool.xor_self,
      Bool.xor_false]
  · simp only [exec_drw_spriteCovers_iff hx hy hfirst]
    refine exists₂_congr fun px py => and_congr_right fun hpx => and_congr_right fun hpy => and_congr_right fun hcov => ?_
    rw [exec_drw_pixel_of_covers hfirst hpx hpy hcov, Bool.not_eq_true']

/-- Settles O36: CLS replaces the framebuffer by the empty one and ends with `next`. -/
theorem clearScreenKeepsVf : Obligations.ClearScreenKeepsVf := by
  unfold Obligations.ClearScreenKeepsVf
  intro s
  have hnext : exec .cls s = .next (s.setFb Framebuffer.clear).advance := rfl
  exact ⟨decode_encode (i := .cls) rfl, _, hnext, fun px py _ _ => Framebuffer.pixel_clear px py,
    (s.setFb Framebuffer.clear).advance_toNat, exec_sameRegsBut hnext,
    sameIndexMemoryStackTimersInputs_of_frame (exec_eq_withWritten hnext)⟩

end

section
/-! SUPPORT. What the keypad and timer instructions leave (spec/45_keys_timers.md): where a skip on a key that is up goes, the
two outcomes of `FX0A`, the frame of a timer write, and the tone after a tick (spec/50_host_interface.md R177). -/

namespace Sys2Proof.Machine

variable {s t : State} {x : RegId}

/-! ### Keys (R161, R162) -/

/-- A skip on a condition that fails is the one on the condition with its two outcomes exchanged. -/
theorem State.skipIf_not_toNat (s : State) (c : Bool) :
    (s.skipIf (!c)).pc.toNat = (s.pc.toNat + if c then 2 else 4) % 4096 := by
  rw [State.skipIf_toNat]
  cases c <;> rfl

theorem exec_ldVxK_of_noKey (hkeys : s.keys = 0#16) : exec (.ldVxK x) s = .next s := by
  change execLdVxK x s = .next s
  rw [execLdVxK, s.lowestKey_none_iff.mpr hkeys]

theorem exec_ldVxK_of_key (hkeys : s.keys ≠ 0#16) :
    ∃ k, s.lowestKey = some k ∧ exec (.ldVxK x) s = writeReg x (BitVec.ofNat 8 k) s := by
  obtain ⟨k, hk⟩ := Option.ne_none_iff_exists'.mp (mt s.lowestKey_none_iff.mp hkeys)
  refine ⟨k, hk, ?_⟩
  change execLdVxK x s = _
  rw [execLdVxK, hk, writeReg]

/-! ### Timers (R164, R165, R177) -/

/-- The frame of whatever writes no more than PC and the timers. -/
theorem sameButPcAndTimers_of_frame {pc : Word} {dt st : Byte} (hframe : t = { s with pc := pc, dt := dt, st := st }) :
    SameRegsBut [] s t ∧ t.i = s.i ∧ SameMemory s t ∧ SamePixels s t ∧ SameStack s t ∧ SameInputs s t := by
  subst hframe
  exact ⟨fun _ _ => rfl, rfl, fun _ => rfl, fun _ _ => rfl, ⟨rfl, rfl⟩, rfl, rfl, rfl, rfl⟩

theorem soundActive_iff_toNat (s : State) : soundActive s = true ↔ s.st.toNat ≠ 0 := by
  rw [soundActive, bne_iff_ne, ← BitVec.toNat_ne_iff_ne, BitVec.toNat_zero]

/-- ST = 1 is too little for a tone after the tick, which takes it to 0. -/
theorem soundActive_tick_iff (s : State) : soundActive s.tick = true ↔ 2 ≤ s.st.toNat := by
  rw [soundActive_iff_toNat, State.tick_st, tickTimer_toNat]
  omega

end Sys2Proof.Machine
end

section
/-! PROOFS. Keypad and timers. -/

open Sys2Proof Sys2Proof.Machine

/-- Settles O40: both skip on one flag, the one of the key that V[X] names, and EXA1 with the outcomes exchanged. -/
theorem keySkipsReadTheSnapshot : Obligations.KeySkipsReadTheSnapshot := by
  unfold Obligations.KeySkipsReadTheSnapshot
  intro x s
  exact ⟨⟨decode_encode (i := .skp x) rfl, _, rfl, s.skipIf_toNat _, onlyRegs_skipIf s _⟩,
    decode_encode (i := .sknp x) rfl, _, rfl, s.skipIf_not_toNat _, onlyRegs_skipIf s _⟩

/-- Settles O41: with a key down `FX0A` writes the index of the lowest one, which fits in a byte, and the tick follows whether
it waits or not. -/
theorem keyWaitPolls : Obligations.KeyWaitPolls := by
  unfold Obligations.KeyWaitPolls
  intro x s
  refine ⟨decode_encode (i := .ldVxK x) rfl, exec_ldVxK_of_noKey, fun hkeys => ?press, fun hdecode => ?step⟩
  case press =>
    obtain ⟨k, hlowest, hexec⟩ := exec_ldVxK_of_key (x := x) hkeys
    obtain ⟨hk, hdown, hleast⟩ := s.lowestKey_some hlowest
    obtain ⟨t, hnext, hreg, hpc, hframe⟩ := writeReg_spec x (BitVec.ofNat 8 k) s
    have hindex : (t.reg x).toNat = k := by
      rw [hreg, BitVec.toNat_ofNat, Nat.mod_eq_of_lt (by omega)]
    exact ⟨k, t, hk, hdown, hleast, hexec.trans hnext, hindex, hpc, hframe⟩
  case step =>
    obtain ⟨u, hexec⟩ := exec_completes (i := .ldVxK x) nofun nofun s
    have hstep : step s = .next u.tick := step_of_exec_next hdecode hexec
    obtain ⟨-, hdt, -, hst⟩ := timersTickOncePerStep s u.tick hstep
    refine ⟨u.tick, hstep, hdt (by rw [hdecode]; nofun), hst (by rw [hdecode]; nofun), fun hkeys => ?_⟩
    rw [exec_ldVxK_of_noKey hkeys] at hexec
    cases hexec
    rfl

/-- Settles O42: V[X] takes DT as it was before the step, and the tick that follows leaves V[X]. -/
theorem delayTimerIsReadBeforeTheTick : Obligations.DelayTimerIsReadBeforeTheTick := by
  unfold Obligations.DelayTimerIsReadBeforeTheTick
  intro x s
  have hexec : exec (.ldVxDt x) s = .next (s.setReg x s.dt).advance := rfl
  exact ⟨decode_encode (i := .ldVxDt x) rfl, writeReg_spec x s.dt s, fun hdecode =>
    ⟨_, step_of_exec_next hdecode hexec, s.setReg_reg_same x s.dt, tickTimer_toNat s.dt⟩⟩

/-- Settles O43: each writes one timer and PC, and the tick takes one from what was written, so a tone needs at least 2. -/
theorem timersAreSetThenTicked : Obligations.TimersAreSetThenTicked := by
  unfold Obligations.TimersAreSetThenTicked
  intro x s
  have hdelay : exec (.ldDtVx x) s = .next (s.setDt (s.reg x)).advance := rfl
  have hsound : exec (.ldStVx x) s = .next (s.setSt (s.reg x)).advance := rfl
  refine ⟨decode_encode (i := .ldDtVx x) rfl, decode_encode (i := .ldStVx x) rfl, ?setDelay, ?setSound, ?stepDelay, ?stepSound⟩
  case setDelay => exact ⟨_, hdelay, rfl, rfl, State.advance_toNat _, sameButPcAndTimers_of_frame rfl⟩
  case setSound => exact ⟨_, hsound, rfl, rfl, State.advance_toNat _, sameButPcAndTimers_of_frame rfl⟩
  case stepDelay => exact fun hdecode => ⟨_, step_of_exec_next hdecode hdelay, tickTimer_toNat (s.reg x)⟩
  case stepSound =>
    exact fun hdecode => ⟨_, step_of_exec_next hdecode hsound, tickTimer_toNat (s.reg x), soundActive_tick_iff _⟩

end

section
/-! SUPPORT. The host's operations (spec/50_host_interface.md R172, R174, R176, R177): the two ends of a load, what memory
reads as after it, one key flag after `setKey`, and one pixel of the snapshot. -/

namespace Sys2Proof.Machine

variable {bytes : List Byte}

/-! ### Loading a program (R172, D28) -/

theorem loadProgram_of_fits (hfits : bytes.length ≤ 3584) (s : State) :
    loadProgram bytes s = .ok (s.writeBytes 0x200 bytes) := if_neg (Nat.not_lt_of_le hfits)

theorem loadProgram_of_tooLarge (hlarge : 3584 < bytes.length) (s : State) :
    loadProgram bytes s = .error .romTooLarge := if_pos hlarge

/-- A program that fits ends at 0xFFF at the latest, so no byte of it wraps to an address below 0x200. -/
theorem writeBytes_program_readByte_other (hfits : bytes.length ≤ 3584) (s : State) {a : Nat} (ha : a < 4096)
    (hout : a < 0x200 ∨ 0x200 + bytes.length ≤ a) : (s.writeBytes 0x200 bytes).readByte a = s.readByte a :=
  s.writeBytes_readByte_other 0x200 a bytes fun k hk => by
    rw [Nat.mod_eq_of_lt ha, Nat.mod_eq_of_lt (by omega)]
    omega

/-! ### Key flags (R174, D26) -/

theorem setKey_outside {index : Nat} (h : 16 ≤ index) (pressed : Bool) (s : State) : setKey index pressed s = s :=
  if_neg (Nat.not_lt_of_le h)

/-- The one spec lemma of `setKey`. -/
theorem setKey_keyDown {index : Nat} (h : index < 16) (pressed : Bool) (s : State) (j : Nat) :
    (setKey index pressed s).keyDown j = if j = index then pressed else s.keyDown j := by
  have hmask : (1#16 <<< index).getLsbD j = decide (index = j) := by
    rw [← BitVec.twoPow_eq, BitVec.getLsbD_twoPow, decide_eq_true h, Bool.true_and]
  rw [setKey, if_pos h]
  cases pressed with
  | true =>
    change (s.keys ||| 1#16 <<< index).getLsbD j = _
    rw [BitVec.getLsbD_or, hmask]
    by_cases hj : j = index
    · rw [if_pos hj, decide_eq_true hj.symm, Bool.or_true]
    · rw [if_neg hj, decide_eq_false (Ne.symm hj), Bool.or_false, State.keyDown]
  | false =>
    change (s.keys &&& ~~~(1#16 <<< index)).getLsbD j = _
    rw [BitVec.getLsbD_and, BitVec.getLsbD_not, hmask]
    by_cases hj : j = index
    · rw [if_pos hj, decide_eq_true hj.symm, Bool.not_true, Bool.and_false, Bool.and_false]
    · rw [if_neg hj, decide_eq_false (Ne.symm hj), Bool.not_false, Bool.and_true, State.keyDown]
      obtain hin | hout := Nat.lt_or_ge j 16
      · rw [decide_eq_true hin, Bool.and_true]
      · rw [BitVec.getLsbD_of_ge _ _ hout, Bool.false_and]

/-! ### Reads (R176, R177) -/

theorem framebufferSnapshot_getElem (s : State) {px py : Nat} (hpx : px < 64) (hpy : py < 32) :
    (framebufferSnapshot s)[py][px] = s.pixel px py := by
  simp only [framebufferSnapshot, Vector.getElem_ofFn]

theorem soundActive_iff (s : State) : soundActive s = true ↔ s.st ≠ 0#8 := bne_iff_ne

end Sys2Proof.Machine
end

section
/-! SUPPORT. A step that changes nothing for the host, however often it is repeated (spec/60_exceptions.md R196, R201), and the
first step after reset. -/

namespace Sys2Proof.Machine

variable {s : State} {f : Fault}

theorem hostStep_of_fault (h : step s = .fault f) : hostStep s = (s, .fault f) := by
  rw [hostStep, h]

theorem hostRun_replicate_of_fixed {m : HostMove} (h : applyMove m s = s) (n : Nat) :
    hostRun (List.replicate n m) s = s := by
  induction n with
  | zero => rfl
  | succ n ih =>
    change hostRun (List.replicate n m) (applyMove m s) = s
    rw [h, ih]

theorem hostRun_steps_of_fault (h : step s = .fault f) (n : Nat) : hostRun (List.replicate n .step) s = s :=
  hostRun_replicate_of_fixed (by rw [applyMove, hostStep_of_fault h]) n

/-- Reset erases the program, so the next step fetches the word 0, a SYS (R42). -/
theorem resetCore_fetchWord (s : State) : (resetCore s).fetchWord = 0#16 := by
  have hzero : ∀ a, 0x200 ≤ a → a < 4096 → (resetCore s).readByte a = 0#8 := fun a hlo hhi => by
    rw [resetCore_readByte s hhi, unlistedByte_outside s.font (by omega)]
  have hpc : (resetCore s).pc.toNat = 0x200 := rfl
  rw [State.fetchWord, hpc, hzero _ (by decide) (by decide), hzero _ (by decide) (by decide)]
  rfl

theorem step_resetCore (s : State) : step (resetCore s) = .next (resetCore s).advance.tick :=
  step_of_exec_next (i := .sys 0#12) (by rw [resetCore_fetchWord]; decide) rfl

end Sys2Proof.Machine
end

section
/-! PROOFS. The host's operations, and faults. -/

open Sys2Proof Sys2Proof.Machine

/-- Settles O48: the host sees a faulting step leave the state, so the next step is the same one, and after reset the step is a
SYS. -/
theorem faultRepeatsUntilReset : Obligations.FaultRepeatsUntilReset := by
  unfold Obligations.FaultRepeatsUntilReset
  intro s f n hfault
  rw [hostRun_steps_of_fault hfault n]
  exact ⟨rfl, hostStep_of_fault hfault, _, step_resetCore s⟩

/-- Settles O45: a load that fits is a write of bytes, and a larger one is refused before anything is written. -/
theorem loadProgramWritesOnlyTheBytes : Obligations.LoadProgramWritesOnlyTheBytes := by
  unfold Obligations.LoadProgramWritesOnlyTheBytes
  intro bytes s
  refine ⟨fun hfits => ?fits, fun hlarge => ?tooLarge⟩
  case fits =>
    exact ⟨_, loadProgram_of_fits hfits s, fun k hk => s.writeBytes_readByte_written 0x200 k bytes hk (by omega),
      fun a ha hout => writeBytes_program_readByte_other hfits s ha hout, s.writeBytes_frame 0x200 bytes⟩
  case tooLarge =>
    exact ⟨loadProgram_of_tooLarge hlarge s, (applyMove_loadProgram bytes s).trans (if_pos hlarge)⟩

/-- Settles O46: `setKey` writes the key flags alone, the one at its index if there is one. -/
theorem setKeyChangesOneFlag : Obligations.SetKeyChangesOneFlag := by
  unfold Obligations.SetKeyChangesOneFlag
  intro index pressed s
  refine ⟨fun h => ?_, fun j hj => ?_, fun h => setKey_outside h pressed s, setKey_frame index pressed s⟩
  · rw [setKey_keyDown h, if_pos rfl]
  · obtain h | h := Nat.lt_or_ge index 16
    · rw [setKey_keyDown h, if_neg hj]
    · rw [setKey_outside h]

/-- Settles O47: the snapshot is read pixel by pixel, and reset sets ST to 0. -/
theorem hostReadsAreTheState : Obligations.HostReadsAreTheState := by
  unfold Obligations.HostReadsAreTheState
  exact fun s => ⟨fun _ _ hpx hpy => framebufferSnapshot_getElem s hpx hpy, soundActive_iff s, rfl⟩

/-- Settles O58: the draw is the one of O25 in the state that holds the injected source. -/
theorem injectedSourceIsDrawnFrom : Obligations.InjectedSourceIsDrawnFrom := by
  unfold Obligations.InjectedSourceIsDrawnFrom
  intro source place x nn s
  obtain ⟨-, t, hnext, hdraws, hbits, -⟩ := randomByteIsMasked x nn (injectSource source place s)
  obtain ⟨-, hsource, -⟩ := exec_sameHostParts hnext
  exact ⟨rfl, ⟨rfl, rfl, rfl, rfl⟩, t, hnext, hsource, hdraws, hbits⟩

end

section
/-! SUPPORT. The flag of `8XYE` and the digits of `FX33` as numbers (spec/42_alu.md R131, spec/43_index_memory.md R143). -/

namespace Sys2Proof.Machine

variable {s t : State} {x : RegId}

/-- The bit shifted out is the carry of the doubling. -/
theorem shiftLeftFlag_toNat (a : Byte) : (shiftLeftFlag a).toNat = a.toNat / 128 := by
  have ha := a.isLt
  rw [shiftLeftFlag, flagByte_toNat, BitVec.getLsbD, Nat.toNat_testBit]
  omega

/-- `FX33` leaves digit `k` at element `k` of the transfer; its three bytes never meet themselves. -/
theorem exec_ldBVx_readByte (h : exec (.ldBVx x) s = .next t) {k : Nat} (hk : k < 3) :
    t.readByte (s.effAddr k) = (decimalDigits (s.reg x))[k]'(by rwa [decimalDigits_length]) := by
  cases h
  exact s.writeBytes_readByte_written (s.effAddr 0) k (decimalDigits (s.reg x)) hk
    (by rw [decimalDigits_length]; decide)

/-- A digit is far below 256, so its byte holds it. -/
theorem exec_ldBVx_digits (h : exec (.ldBVx x) s = .next t) :
    (t.readByte (s.effAddr 0)).toNat = (s.reg x).toNat / 100 ∧
    (t.readByte (s.effAddr 1)).toNat = (s.reg x).toNat / 10 % 10 ∧
    (t.readByte (s.effAddr 2)).toNat = (s.reg x).toNat % 10 := by
  have hbyte := (s.reg x).isLt
  have hhundreds : t.readByte (s.effAddr 0) = BitVec.ofNat 8 ((s.reg x).toNat / 100) := exec_ldBVx_readByte h (by decide)
  have htens : t.readByte (s.effAddr 1) = BitVec.ofNat 8 ((s.reg x).toNat / 10 % 10) := exec_ldBVx_readByte h (by decide)
  have hones : t.readByte (s.effAddr 2) = BitVec.ofNat 8 ((s.reg x).toNat % 10) := exec_ldBVx_readByte h (by decide)
  rw [hhundreds, htens, hones, BitVec.toNat_ofNat, BitVec.toNat_ofNat, BitVec.toNat_ofNat]
  exact ⟨Nat.mod_eq_of_lt (by omega), Nat.mod_eq_of_lt (by omega), Nat.mod_eq_of_lt (by omega)⟩

theorem exec_ldBVx_sameIndex (h : exec (.ldBVx x) s = .next t) : t.i = s.i :=
  exec_sameIndex (i := .ldBVx x) nofun (fun _ => ⟨nofun, nofun⟩) h

end Sys2Proof.Machine
end

section
/-! PROOFS. The skips with a low nibble that is ignored (D11), `8XY7` (D9), `8XYE` (D10), and the digits of `FX33`. -/

open Sys2Proof Sys2Proof.Machine

/-- Settles O16: the row with n not 0 differs from the one with n = 0 only in the word that decodes to it. -/
theorem aliasSkipsIgnoreLowNibble : Obligations.AliasSkipsIgnoreLowNibble := by
  unfold Obligations.AliasSkipsIgnoreLowNibble
  intro x y n s hn
  refine ⟨?se, ?sne⟩
  case se =>
    exact ⟨decode_encode (i := .seRegAlias x y n) (wellFormed_seRegAlias.mpr hn), rfl, _, rfl, s.skipIf_beq_toNat _ _,
      onlyRegs_skipIf s _⟩
  case sne =>
    exact ⟨decode_encode (i := .sneRegAlias x y n) (wellFormed_sneRegAlias.mpr hn), rfl, _, rfl, s.skipIf_bne_toNat _ _,
      onlyRegs_skipIf s _⟩

/-- Settles O22: the distance of the two operands and the no-borrow flag, with V[Y] as the minuend. -/
theorem subnMirrorsSub : Obligations.SubnMirrorsSub := by
  unfold Obligations.SubnMirrorsSub
  intro x y s
  obtain ⟨t, hnext, hdiff, hflag, hpc, hframe⟩ :=
    writeRegFlag_spec x (absDiff (s.reg y) (s.reg x)) (noBorrowFlag (s.reg y) (s.reg x)) s
  exact ⟨decode_encode (i := .subnReg x y) rfl, t, hnext, fun hx => by rw [hdiff hx, absDiff_toNat_eq_natAbs],
    by rw [hflag, noBorrowFlag_toNat], hpc, hframe⟩

/-- Settles O23: result and flag are the remainder and the quotient of twice V[X] by 256; Y is not read. -/
theorem shlDoublesAndKeepsHighBit : Obligations.ShlDoublesAndKeepsHighBit := by
  unfold Obligations.ShlDoublesAndKeepsHighBit
  intro x y s
  obtain ⟨t, hnext, hdouble, hflag, hpc, hframe⟩ := writeRegFlag_spec x (s.reg x <<< 1) (shiftLeftFlag (s.reg x)) s
  exact ⟨decode_encode (i := .shl x y) rfl, t, hnext,
    fun hx => by rw [hdouble hx, BitVec.toNat_shiftLeft, Nat.shiftLeft_eq, Nat.pow_one, Nat.mul_comm],
    by rw [hflag, shiftLeftFlag_toNat], hpc, hframe⟩

/-- Settles O30: the three bytes are the quotients and remainders by 10 and 100, which put together are V[X]. -/
theorem decimalDigitsAreStored : Obligations.DecimalDigitsAreStored := by
  unfold Obligations.DecimalDigitsAreStored
  intro x s
  have hnext : exec (.ldBVx x) s = .next (s.writeBytes (s.effAddr 0) (decimalDigits (s.reg x))).advance := rfl
  have hpc := (s.writeBytes (s.effAddr 0) (decimalDigits (s.reg x))).advance_toNat
  rw [State.writeBytes_pc] at hpc
  obtain ⟨hhundreds, htens, hones⟩ := exec_ldBVx_digits hnext
  exact ⟨decode_encode (i := .ldBVx x) rfl, _, hnext, hhundreds, by omega, by omega, by omega,
    exec_sameMemoryOutside hnext, hpc, exec_sameRegsBut hnext, exec_ldBVx_sameIndex hnext,
    samePixelsStackTimersInputs_of_frame (exec_eq_withWritten hnext)⟩

end
